-- ==== Sys2Proof/Word.lean ====
section
/-! DEFINITION. The widths of WHB32: the 32-bit word (00_scope R7), the 36-bit packed command (30_encoding R60)
and the 33-bit verifier counter (10_state R23). The word operators of R8 are those of `BitVec 32`: `+`, `*`, `-`,
`~~~`, `^^^`, `<<<` and the logical `>>>`, all modulo 2^32; no rule shifts by 32 or more. -/

namespace Sys2Proof

/-- A word: a 32-bit unsigned integer; the block has no signed values (R7, R12). -/
abbrev Word := BitVec 32

/-- The packed command `CMD[35:0]` (R60). -/
abbrev Cmd := BitVec 36

/-- A value of the verifier counter, 33 bits (R6 `CNT_WIDTH`, R23). -/
abbrev Count := BitVec 33

end Sys2Proof
end

