-- ==== Sys2Proof/Config.lean ====
section
/-! DEFINITION. The implementation parameters of 00_scope R6: the fixed ones as constants, the OPEN ones as the
fields of `Params`, which the model takes as an argument (State carries it, no step writes it; log 1).
The spec leaves no value undefined, so there is no free value here. -/

namespace Sys2Proof.Config

/-- `DOMAIN`: how many values a sweep tests, 2^32 (R6). -/
abbrev domain : Nat := 4294967296

/-- `PROG_INTERVAL`: iterations between progress events (R6). -/
abbrev progInterval : Nat := 100000000

/-- The two halves of `RESET_STYLE` (R6): reset polarity and synchronisation. No rule reads it (R240, K9). -/
structure ResetStyle where
  activeHigh : Bool
  synchronous : Bool
  deriving DecidableEq, Repr

/-- The OPEN parameters of R6, fixed when the block is built (R242). Only `hasVerifier` is read by a rule:
no rule depends on the latencies, on `RESET_STYLE` or on `PROG_BACKPRESSURE` (K8, K9, K10). -/
structure Params where
  /-- `HAS_VERIFIER` -/
  hasVerifier : Bool
  /-- `LAT_HASH` -/
  latHash : Nat
  /-- `LAT_UNHASH` -/
  latUnhash : Nat
  /-- `LAT_VSTEP` -/
  latVstep : Nat
  /-- `RESET_STYLE` -/
  resetStyle : ResetStyle
  /-- `PROG_BACKPRESSURE` -/
  progBackpressure : Bool
  deriving DecidableEq, Repr

/-- DESIGN CHOICE (log 1; unsafe for a claim about `State.reset` alone): the parameters `State.reset` is built with.
The spec leaves them OPEN; every statement quantifies over them instead of resting on these. -/
def reference : Params :=
  { hasVerifier := true, latHash := 0, latUnhash := 0, latVstep := 0,
    resetStyle := { activeHigh := true, synchronous := true }, progBackpressure := false }

end Sys2Proof.Config
end

