-- ==== Sys2Proof/Syntax.lean ====
section
/-! DEFINITION. The five commands of spec/opcode_table.json, one constructor per row (30_encoding R63). Every
command carries the argument word (R60, R62); VSTART, VSTAT and VCOUNT ignore it, and it stays in the syntax so
that no bit of a command word is lost. -/

namespace Sys2Proof

/-- A defined command with its argument. -/
inductive Instr where
  /-- HASH: forward transform of the argument (R110) -/
  | hash (arg : Word)
  /-- UNHASH: inverse transform of the argument (R130) -/
  | unhash (arg : Word)
  /-- VSTART: start a sweep; the argument is ignored (R141) -/
  | vstart (arg : Word)
  /-- VSTAT: read the status word; the argument is ignored (R160) -/
  | vstat (arg : Word)
  /-- VCOUNT: read the low 32 bits of the counter; the argument is ignored (R161) -/
  | vcount (arg : Word)
  deriving DecidableEq, Repr

end Sys2Proof
end

