-- ==== Sys2Proof/WellFormed.lean ====
section
/-! DEFINITION. The checks on raw values: which opcodes are defined (R65), which status codes exist (R200, K4),
which numbers are command words (R60), and which commands the bare listing syntax can write (R69). An `Instr` needs
no check of its own: every argument is legal with every defined opcode (R65). -/

namespace Sys2Proof

/-- R65: the defined commands are `op` 0x1 to 0x5; 0x0 and 0x6 to 0xF are reserved. -/
def opDefined (op : BitVec 4) : Bool := decide (1 ≤ op.toNat ∧ op.toNat ≤ 5)

/-- R200: codes 0 to 4 are produced; 5, 6 and 7 never are. -/
def statusCodeDefined (code : BitVec 3) : Bool := decide (code.toNat ≤ 4)

/-- R60: a command is a 36-bit value; a number with a bit above bit 35 is no command. -/
def isCommandWord (w : Nat) : Bool := decide (w < 2 ^ 36)

/-- R65: "Every value of `arg` is legal with every defined `op`". -/
def Instr.wellFormed : Instr → Bool
  | .hash _ => true
  | .unhash _ => true
  | .vstart _ => true
  | .vstat _ => true
  | .vcount _ => true

/-- R69: VSTART, VSTAT and VCOUNT are written bare, meaning `arg` = 0, so only with that argument does the bare
listing stand for the command. -/
def Instr.listable : Instr → Bool
  | .hash _ => true
  | .unhash _ => true
  | .vstart arg => decide (arg = 0)
  | .vstat arg => decide (arg = 0)
  | .vcount arg => decide (arg = 0)

end Sys2Proof
end

