-- ==== Sys2Proof/Decode.lean ====
section
/-! DEFINITION. The decoder of 30_encoding R60, R63, R65, total on all 2^36 command words (R68) and rejecting the
reserved opcodes by name, the encoder from the same table, and the host's entry `decodeTableWord`. -/

namespace Sys2Proof

/-- `CMD[35:32]` (R60). -/
def cmdOp (c : Cmd) : BitVec 4 := c.extractLsb' 32 4

/-- `CMD[31:0]` (R60). -/
def cmdArg (c : Cmd) : Word := c.extractLsb' 0 32

/-- The command word with the given fields (R60); also the command the ports `cmd_op`, `cmd_arg` carry (R71). -/
def packCmd (op : BitVec 4) (arg : Word) : Cmd := (op.setWidth 36 <<< 32) ||| arg.setWidth 36

/-- What a command word is: a defined command, or a reserved opcode, rejected by name (R65). -/
inductive Decoded where
  | instr (i : Instr)
  | reserved (op : BitVec 4)
  deriving DecidableEq, Repr

/-- R63: the opcode map; R68: total, with the class of `op` alone deciding. -/
def decode (c : Cmd) : Decoded :=
  match (cmdOp c).toNat with
  | 1 => .instr (.hash (cmdArg c))
  | 2 => .instr (.unhash (cmdArg c))
  | 3 => .instr (.vstart (cmdArg c))
  | 4 => .instr (.vstat (cmdArg c))
  | 5 => .instr (.vcount (cmdArg c))
  | _ => .reserved (cmdOp c)

/-- The opcode column of R63. -/
def Instr.opcode : Instr → BitVec 4
  | .hash _ => 0x1
  | .unhash _ => 0x2
  | .vstart _ => 0x3
  | .vstat _ => 0x4
  | .vcount _ => 0x5

/-- The argument field of a command (R62). -/
def Instr.arg : Instr → Word
  | .hash a => a
  | .unhash a => a
  | .vstart a => a
  | .vstat a => a
  | .vcount a => a

/-- The command word of a command (R60, R63). -/
def encode (i : Instr) : Cmd := packCmd i.opcode i.arg

/-- The `mask` column of spec/opcode_table.json, the same in every row. -/
def tableMask : Cmd := 0xF00000000

/-- The `match` column of spec/opcode_table.json (R110, R130, R141, R160, R161). -/
def Instr.tableMatch : Instr → Cmd
  | .hash _ => 0x100000000
  | .unhash _ => 0x200000000
  | .vstart _ => 0x300000000
  | .vstat _ => 0x400000000
  | .vcount _ => 0x500000000

/-- The command whose bits are the low `nbits` bits of `w`, the rest zero; none where a bit above bit 35 is set,
since a command has 36 bits and no more (R60; DESIGN CHOICE, log 8). -/
def tableCommand (nbits w : Nat) : Option Cmd :=
  if isCommandWord (w % 2 ^ nbits) then some (BitVec.ofNat 36 (w % 2 ^ nbits)) else none

/-- The command the decoder reads from a word numbered as spec/opcode_table.json numbers it. -/
def decodeTableWord (nbits w : Nat) : Option Instr :=
  match tableCommand nbits w with
  | none => none
  | some c =>
    match decode c with
    | .instr i => some i
    | .reserved _ => none

end Sys2Proof
end

