-- ==== Sys2Proof/Machine/State.lean ====
section
/-! DEFINITION. The state of WHB32: the three items of 10_state R20, the parameters of R6 the model takes as an
argument, and, as plain data at the block's boundary, what its agents do next and the responses given. -/

namespace Sys2Proof.Machine

/-- The four legal values of `VSTATE` (R22). -/
inductive VState where
  /-- no sweep has been started since reset -/
  | idle
  /-- a sweep is in progress -/
  | running
  /-- the last sweep checked the whole domain without a mismatch -/
  | pass
  /-- the last sweep found a mismatch; sticky until reset -/
  | fail
  deriving DecidableEq, Repr

/-- The response statuses of 60_exceptions R200. -/
inductive Status where
  | ok
  | illegalOp
  | unsupported
  | busy
  | failed
  deriving DecidableEq, Repr

/-- A response: status and data word (R64). -/
structure Response where
  status : Status
  data : Word
  deriving DecidableEq, Repr

/-- A progress event `Progress(idx, pct)`: a word and a 7-bit value (R24). -/
structure Progress where
  idx : Word
  pct : BitVec 7
  deriving DecidableEq, Repr

/-- One turn of one of the three agents of R247. -/
inductive Turn where
  /-- the host issues a command word through the command channel -/
  | host (c : Cmd)
  /-- the verifier takes its step -/
  | verifier
  /-- the platform applies reset -/
  | platform
  deriving DecidableEq, Repr

/-- Why a step stops. No command ever stops the machine: an error of the block is a response (R200, R206). -/
inductive Fault where
  /-- Raised by `takeTurn` when the next turn is the verifier's and the verifier has no step (R144): a schedule the
  block does not have. Safe: nothing happens that the block could do. Log 3. -/
  | verifierHasNoStep
  /-- Raised by `step` when no turn is waiting and the verifier has no step: the run is over (R252). Safe: the block
  would only stay as it is (R213). Log 3. -/
  | runOver
  deriving DecidableEq, Repr

/-- Why a command has no meaning. Nothing raises it: every command has its meaning. -/
inductive Refusal where
  /-- Raised only by an arm of `exec` for a command without a meaning; no arm does. Safe. -/
  | notModelled (mnemonic : String)
  deriving DecidableEq, Repr

/-- The state. `vstate`, `vcnt` and `ptrace` are the block's whole architectural state (R20); `params` are the OPEN
parameters (R6, log 1); `turns` and `responses` are the model's own, the inputs still to come (log 2) and the
responses given, oldest first (log 4). The spec's block has no registers, no program counter and no memory (R29, R40). -/
structure State where
  params : Config.Params
  /-- `VSTATE` (R22) -/
  vstate : VState
  /-- `VCNT` (R23) -/
  vcnt : Count
  /-- `PTRACE`, oldest event first (R24) -/
  ptrace : List Progress
  /-- what the agents do next, the next turn first (R247) -/
  turns : List Turn
  /-- the responses given so far, oldest first (R64) -/
  responses : List Response
  deriving DecidableEq, Repr

/-- The block right after power-on and reset, built with the parameters `p` (R31, R242): VSTATE IDLE, VCNT 0. The
empty PTRACE is DEDUCED (95_test_vectors section 4; log 5); the empty boundary lists are the model's (logs 2, 4). -/
def State.afterReset (p : Config.Params) : State :=
  { params := p, vstate := .idle, vcnt := 0, ptrace := [], turns := [], responses := [] }

/-- The state after reset, with the reference parameters of log 1. -/
def State.reset : State := State.afterReset Config.reference

end Sys2Proof.Machine
end

