-- ==== Sys2Proof/Machine/Operands.lean ====
section
/-! DEFINITION. Operand forms and the width changes of 00_scope R10: the one operand `arg` (R62), `trunc_32`,
`zext_33` and `zext_32`. -/

namespace Sys2Proof.Machine

/-- R62: the argument is a word taken as it stands, neither extended nor scaled nor shifted. -/
def argOperand (arg : Word) : Word := arg

/-- `trunc_32(c)`: bits 31..0 of a 33-bit value (R10). -/
def trunc32 (c : Count) : Word := c.extractLsb' 0 32

/-- `zext_33(v)`: the word with bit 32 = 0 (R10). -/
def zext33 (v : Word) : Count := v.setWidth 33

/-- `zext_32(f)`: a narrower field widened to a word (R10). -/
def zext32 {n : Nat} (f : BitVec n) : Word := f.setWidth 32

end Sys2Proof.Machine
end

