-- ==== Sys2Proof/Machine/Flags.lean ====
section
/-! DEFINITION. The block has no condition flags (R29); what it shows of its state is computed here: the codes of
VSTATE and of the statuses (R22, R200), the level outputs (R25), and the readable views of the verifier (R26, R27). -/

namespace Sys2Proof.Machine

/-- The 2-bit code of a verifier state (R22). -/
def VState.code : VState → BitVec 2
  | .idle => 0
  | .running => 1
  | .pass => 2
  | .fail => 3

/-- The verifier state with a given code; all four codes are legal (R22). -/
def VState.ofCode (c : BitVec 2) : VState :=
  match c.toNat with
  | 0 => .idle
  | 1 => .running
  | 2 => .pass
  | _ => .fail

/-- The 3-bit code of a response status (R200). -/
def Status.code : Status → BitVec 3
  | .ok => 0
  | .illegalOp => 1
  | .unsupported => 2
  | .busy => 3
  | .failed => 4

/-- The status with a given code; 5, 6 and 7 are reserved and stand for none (R200, K4). -/
def Status.ofCode (c : BitVec 3) : Option Status :=
  match c.toNat with
  | 0 => some .ok
  | 1 => some .illegalOp
  | 2 => some .unsupported
  | 3 => some .busy
  | 4 => some .failed
  | _ => none

/-- `floor(100 * n / 2^32)`, computed exactly as a natural number (R26, R150). -/
def percent (n : Nat) : Nat := 100 * n / Config.domain

/-- The 7-bit PCT of a counter value (R24, R26). For a counter above 2^32, which no run reaches (R28), the field keeps
its low 7 bits (DEDUCED, log 7). -/
def pctField (n : Count) : BitVec 7 := BitVec.ofNat 7 (percent n.toNat)

/-- `CNT_HI = VCNT[32]` (R26). -/
def cntHi (n : Count) : BitVec 1 := n.extractLsb' 32 1

/-- The status word of R26: `zext_32(PCT) << 3 | zext_32(VCNT[32]) << 2 | zext_32(VSTATE)`. -/
def statusWord (s : State) : Word :=
  (zext32 (pctField s.vcnt) <<< 3) ||| (zext32 (cntHi s.vcnt) <<< 2) ||| zext32 s.vstate.code

/-- `ver_done` (R25); 0 at all times without a verifier. -/
def verDone (s : State) : Bool :=
  s.params.hasVerifier && (decide (s.vstate = .pass) || decide (s.vstate = .fail))

/-- `ver_pass` (R25); 0 at all times without a verifier. -/
def verPass (s : State) : Bool := s.params.hasVerifier && decide (s.vstate = .pass)

/-- R144: the verifier has a step exactly when it is present and RUNNING. -/
def verifierEnabled (s : State) : Bool := s.params.hasVerifier && decide (s.vstate = .running)

end Sys2Proof.Machine
end

