-- ==== Sys2Proof/Machine/Ops.lean ====
section
/-! DEFINITION. The named operations on the state that every step is made of (00_scope R10), among them the one way an
error is taken: the block has no trap, no handler and no return (R206, R207), so an error is a response with a
non-OK status and data 0 and writes nothing else (R64, R200). -/

namespace Sys2Proof.Machine

/-- `respond(status, data)`: the one response of a command, given in command order (R64). -/
def respond (st : Status) (data : Word) (s : State) : State :=
  { s with responses := s.responses ++ [{ status := st, data := data }] }

/-- Taking an error: a non-OK status with data 0, no state written (R64, R200). -/
def respondError (st : Status) (s : State) : State := respond st 0 s

/-- `emit Progress(idx, pct)`: append an event to PTRACE (R10, R24). -/
def emit (e : Progress) (s : State) : State := { s with ptrace := s.ptrace ++ [e] }

/-- Write VSTATE and VCNT. Only VSTART, the verifier step and reset do (R22, R23). -/
def setSweep (v : VState) (n : Count) (s : State) : State := { s with vstate := v, vcnt := n }

/-- RESET: VSTATE IDLE, VCNT 0, PTRACE unchanged (R240). -/
def applyReset (s : State) : State := setSweep .idle 0 s

/-- R67: without a verifier a verifier command responds UNSUPPORTED with data 0 and changes no state. -/
def whenVerifier (k : State → State) (s : State) : State :=
  if s.params.hasVerifier then k s else respondError .unsupported s

end Sys2Proof.Machine
end

