-- ==== Sys2Proof/Machine/Forward.lean ====
section
/-! DEFINITION. FWD, the forward transform engine: the six stages of 40_forward_hash R100 and the HASH command R110. -/

namespace Sys2Proof.Machine

/-- An add-with-complement-shift stage `y = x + ~(x << s)` (R101, R105). -/
def addComplementShift (s : Nat) (x : Word) : Word := x + ~~~(x <<< s)

/-- An xor-shift stage `y = x ^ (x >> s)` (R102, R104, R106). -/
def xorShift (s : Nat) (x : Word) : Word := x ^^^ (x >>> s)

/-- Stage 1 (R101). -/
def fwdStage1 (k0 : Word) : Word := addComplementShift 15 k0

/-- Stage 2 (R102). -/
def fwdStage2 (k1 : Word) : Word := xorShift 10 k1

/-- Stage 3, add-with-shift, `9 * k2` (R103). -/
def fwdStage3 (k2 : Word) : Word := k2 + (k2 <<< 3)

/-- Stage 4 (R104). -/
def fwdStage4 (k3 : Word) : Word := xorShift 6 k3

/-- Stage 5 (R105). -/
def fwdStage5 (k4 : Word) : Word := addComplementShift 11 k4

/-- Stage 6 (R106). -/
def fwdStage6 (k5 : Word) : Word := xorShift 16 k5

/-- `hash32`: the six stages in series (R100). -/
def hash32 (k0 : Word) : Word :=
  fwdStage6 (fwdStage5 (fwdStage4 (fwdStage3 (fwdStage2 (fwdStage1 k0)))))

/-- HASH: respond OK with `hash32(arg)` in every state; no state written, no progress event (R110). -/
def execHash (arg : Word) (s : State) : Host.Outcome State Fault Refusal :=
  .next (respond .ok (hash32 (argOperand arg)) s)

end Sys2Proof.Machine
end

