-- ==== Sys2Proof/Machine/Inverse.lean ====
section
/-! DEFINITION. INV, the inverse transform engine: the six steps of 41_inverse_unhash R120, the general cascade of R121
they are cases of, and the UNHASH command R130. -/

namespace Sys2Proof.Machine

/-- The multiplier for s = 11, `2047^-1` (R123). -/
def invMul11 : Word := 4290770943

/-- The multiplier `9^-1` (R125). -/
def invMul9 : Word := 954437177

/-- The multiplier for s = 15, `32767^-1` (R127). -/
def invMul15 : Word := 3221192703

/-- The shift amounts of a cascade: 0 and every multiple of `s` below 32 (R121; C2, C3). -/
def cascadeShifts (s : Nat) : List Nat := ((List.range 32).map (· * s)).filter (· < 32)

/-- The cascade `y ^ (y >> s) ^ (y >> 2s) ^ ...` of R121, for `1 <= s <= 31`. -/
def cascade (s : Nat) (y : Word) : Word := (cascadeShifts s).foldl (fun acc k => acc ^^^ (y >>> k)) 0

/-- Step 1, inverting stage 6 (R122). -/
def invStep1 (k6 : Word) : Word := k6 ^^^ (k6 >>> 16)

/-- Step 2, inverting stage 5 (R123). -/
def invStep2 (k5 : Word) : Word := invMul11 * ~~~k5

/-- Step 3, inverting stage 4 (R124). -/
def invStep3 (k4 : Word) : Word :=
  k4 ^^^ (k4 >>> 6) ^^^ (k4 >>> 12) ^^^ (k4 >>> 18) ^^^ (k4 >>> 24) ^^^ (k4 >>> 30)

/-- Step 4, inverting stage 3 (R125). -/
def invStep4 (k3 : Word) : Word := invMul9 * k3

/-- Step 5, inverting stage 2 (R126). -/
def invStep5 (k2 : Word) : Word := k2 ^^^ (k2 >>> 10) ^^^ (k2 >>> 20) ^^^ (k2 >>> 30)

/-- Step 6, inverting stage 1 (R127). -/
def invStep6 (k1 : Word) : Word := invMul15 * ~~~k1

/-- `unhash32`: the six inverse steps in series (R120). -/
def unhash32 (k6 : Word) : Word :=
  invStep6 (invStep5 (invStep4 (invStep3 (invStep2 (invStep1 k6)))))

/-- UNHASH: respond OK with `unhash32(arg)` in every state; no state written, no progress event (R130). -/
def execUnhash (arg : Word) (s : State) : Host.Outcome State Fault Refusal :=
  .next (respond .ok (unhash32 (argOperand arg)) s)

end Sys2Proof.Machine
end

