-- ==== Sys2Proof/Machine/Verifier.lean ====
section
/-! DEFINITION. VER, the exhaustive verifier (42_verifier): the commands VSTART, VSTAT and VCOUNT, and the verifier's own
step. The step is written over the round trip it checks, so that its FAIL branch, which these datapaths never take
(R148), can be stated and tested (DESIGN CHOICE, log 9). -/

namespace Sys2Proof.Machine

/-- What VSTART does with the verifier present, by VSTATE (R141). -/
def startSweep (s : State) : State :=
  match s.vstate with
  | .idle => respond .ok 0 (setSweep .running 0 s)
  | .pass => respond .ok 0 (setSweep .running 0 s)
  | .running => respondError .busy s
  | .fail => respondError .failed s

/-- VSTART (R141); UNSUPPORTED without a verifier (R67). -/
def execVstart (_arg : Word) (s : State) : Host.Outcome State Fault Refusal :=
  .next (whenVerifier startSweep s)

/-- VSTAT: the status word of R26 (R160); UNSUPPORTED without a verifier (R67). -/
def execVstat (_arg : Word) (s : State) : Host.Outcome State Fault Refusal :=
  .next (whenVerifier (fun s => respond .ok (statusWord s) s) s)

/-- VCOUNT: the low 32 bits of VCNT (R161, R27); UNSUPPORTED without a verifier (R67). -/
def execVcount (_arg : Word) (s : State) : Host.Outcome State Fault Refusal :=
  .next (whenVerifier (fun s => respond .ok (trunc32 s.vcnt) s) s)

/-- The event of index `i`: `Progress(trunc_32(i), floor(100 * i / 2^32))` (R150). -/
def progressAt (i : Count) : Progress := { idx := trunc32 i, pct := pctField i }

/-- The progress event of the step that tests the counter's index, if the index is a multiple of `PROG_INTERVAL`
(R145, R150). -/
def emitProgress (s : State) : State :=
  if s.vcnt.toNat % Config.progInterval = 0 then emit (progressAt s.vcnt) s else s

/-- The check of the counter's index against a round trip: on a mismatch FAIL, and VCNT keeps the index; else VCNT
advances, and PASS at 2^32 (R145, R146). -/
def checkIndex (roundTrip : Word → Word) (s : State) : State :=
  if roundTrip (trunc32 s.vcnt) = trunc32 s.vcnt then
    setSweep (if s.vcnt + 1 = 4294967296 then .pass else s.vstate) (s.vcnt + 1) s
  else setSweep .fail s.vcnt s

/-- VSTEP over a given round trip: the event comes before the check of the same index (R145). -/
def verifierStepWith (roundTrip : Word → Word) (s : State) : State := checkIndex roundTrip (emitProgress s)

/-- The round trip of the verifier's own datapaths, which compute the same functions as FWD and INV (R140, R147). -/
def roundTrip (x : Word) : Word := unhash32 (hash32 x)

/-- VSTEP (R145). -/
def verifierStep (s : State) : State := verifierStepWith roundTrip s

end Sys2Proof.Machine
end

