-- ==== Sys2Proof/Machine/Dispatch.lean ====
section
/-! DEFINITION. The dispatch of a defined command to its meaning (R63, R68), one arm per command. -/

namespace Sys2Proof.Machine

def exec (i : Instr) (s : State) : Host.Outcome State Fault Refusal :=
  match i with
  | .hash arg => Sys2Proof.Machine.execHash arg s
  | .unhash arg => Sys2Proof.Machine.execUnhash arg s
  | .vstart arg => Sys2Proof.Machine.execVstart arg s
  | .vstat arg => Sys2Proof.Machine.execVstat arg s
  | .vcount arg => Sys2Proof.Machine.execVcount arg s

end Sys2Proof.Machine
end

