-- ==== Sys2Proof/Machine/Turns.lean ====
section
/-! DEFINITION. The three kinds of atomic step (70_reset_and_hazards R246): a command, a verifier step, a reset, and whose
turn is next. -/

namespace Sys2Proof.Machine

/-- A command word accepted whole (R61): a defined command runs; a reserved opcode responds ILLEGAL_OP with data 0 and
changes no state (R66). -/
def acceptCommand (c : Cmd) (s : State) : Host.Outcome State Fault Refusal :=
  match decode c with
  | .instr i => exec i s
  | .reserved _ => .next (respondError .illegalOp s)

/-- The verifier's step where it has one (R144), and the given stop where it has none. -/
def verifierTurn (stop : Fault) (s : State) : Host.Outcome State Fault Refusal :=
  if verifierEnabled s then .next (verifierStep s) else .fault stop

/-- One turn of one agent (R247). -/
def takeTurn (t : Turn) (s : State) : Host.Outcome State Fault Refusal :=
  match t with
  | .host c => acceptCommand c s
  | .verifier => verifierTurn .verifierHasNoStep s
  | .platform => .next (applyReset s)

/-- The next step: the waiting turn, taken off `turns`, or, where none waits, the verifier's (R248, R252; logs 2, 3). -/
def nextStep (s : State) : Host.Outcome State Fault Refusal :=
  match s.turns with
  | [] => verifierTurn .runOver s
  | t :: rest => takeTurn t { s with turns := rest }

/-- The host's next turn is the given command. -/
def withCommand (c : Cmd) (s : State) : State := { s with turns := .host c :: s.turns }

end Sys2Proof.Machine
end

