-- ==== Sys2Proof/Machine/Step.lean ====
section
/-! DEFINITION. The step of the machine and the host's placing of a command. -/

namespace Sys2Proof.Machine

/-- One atomic step of the block (R246). -/
def step (s : State) : Host.Outcome State Fault Refusal := nextStep s

/-- `s` with the command of the given word as the very next turn; the block fetches nothing (R49), so this is the host
issuing that command (log 14). A number (log 8) that is no 36-bit command places nothing. -/
def State.withFetchWord (s : State) (nbits w : Nat) : State :=
  match tableCommand nbits w with
  | some c => withCommand c s
  | none => s

end Sys2Proof.Machine
end

