-- ==== Sys2Proof/Machine/Ports.lean ====
section
/-! DEFINITION. The output ports of 30_encoding R71 at the transaction level: what one step presents, with the widths the
rule gives. The clock, the handshakes and `rst` have no transaction-level value (R71, D23); the input ports `cmd_op` and
`cmd_arg` are the two arguments of `packCmd`. -/

namespace Sys2Proof.Machine

/-- What the ports present in a step; `none` where the valid port is 0. -/
structure OutPorts where
  /-- `resp_valid` with `resp_status` and `resp_data` -/
  resp : Option (BitVec 3 × BitVec 32)
  /-- `prog_valid` with `prog_idx` and `prog_pct` -/
  prog : Option (BitVec 32 × BitVec 7)
  /-- `ver_done` after the step -/
  verDone : Bool
  /-- `ver_pass` after the step -/
  verPass : Bool
  deriving DecidableEq, Repr

/-- The ports' values for a step that leads from `before` to `after`: the response and the event that step added. -/
def outPorts (before after : State) : OutPorts :=
  { resp := (after.responses.drop before.responses.length).head?.map (fun r => (r.status.code, r.data))
    prog := (after.ptrace.drop before.ptrace.length).head?.map (fun e => (e.idx, e.pct))
    verDone := Sys2Proof.Machine.verDone after
    verPass := Sys2Proof.Machine.verPass after }

end Sys2Proof.Machine
end

