-- ==== Sys2Proof/Machine/Pseudo.lean ====
section
/-! DEFINITION. The pseudo-commands RTRIP and VWAIT of 30_encoding R70: host-side sequences of commands, not encodings of
the block. -/

namespace Sys2Proof.Machine

/-- Issue a command and take its response (R61, R64). -/
def issue (i : Instr) (s : State) : Option (Response × State) :=
  match exec i s with
  | .next t => t.responses.getLast?.map (fun r => (r, t))
  | .fault _ => none
  | .refused _ => none

/-- Up to `n` verifier steps, as many as the verifier has. -/
def verifierSteps : Nat → State → State
  | 0, s => s
  | n + 1, s => if verifierEnabled s then verifierSteps n (verifierStep s) else s

/-- RTRIP x: HASH x giving h, UNHASH h giving r; it passes when r == x (R70). `gap` is how many verifier steps fall between
the two commands, from none upward (R247, K15). DESIGN CHOICE: they are an argument, and no reset falls between (log 12). -/
def rtrip (x : Word) (gap : Nat) (s : State) : Option (Bool × State) :=
  match issue (.hash x) s with
  | none => none
  | some (h, s1) =>
    match issue (.unhash h.data) (verifierSteps gap s1) with
    | none => none
    | some (r, s2) => some (decide (r.data = x), s2)

/-- The STATE field of an OK status word is PASS or FAIL (R26, R70). -/
def sweepOver (r : Response) : Bool :=
  decide (r.status = .ok) && (decide (r.data.extractLsb' 0 2 = 2) || decide (r.data.extractLsb' 0 2 = 3))

/-- VWAIT: VSTAT repeated until STATE is PASS or FAIL (R70), with the last status word. `gaps` is how many verifier
steps fall between one poll and the next (R249); none when they run out before the sweep is over. DESIGN CHOICE: the gaps
are an argument, and no reset falls between (log 12). -/
def vwait : List Nat → State → Option (Word × State)
  | [], s =>
    match issue (.vstat 0) s with
    | none => none
    | some (r, t) => if sweepOver r then some (r.data, t) else none
  | g :: gaps, s =>
    match issue (.vstat 0) s with
    | none => none
    | some (r, t) => if sweepOver r then some (r.data, t) else vwait gaps (verifierSteps g t)

end Sys2Proof.Machine
end

