-- ==== Sys2Proof/Safety.lean ====
section
/-! DEFINITION. What counts as a well-behaved state and a safe run, in the terms the statements use: the invariant of
10_state R28, the shape of the progress trace (R150) and of the responses (R64), and a block without a verifier (R20). -/

namespace Sys2Proof.Machine

/-- R28: what VCNT may be in each state of the verifier. -/
abbrev SweepInv (s : State) : Prop :=
  (s.vstate = .idle → s.vcnt.toNat = 0) ∧
  (s.vstate = .running → s.vcnt.toNat ≤ Config.domain - 1) ∧
  (s.vstate = .pass → s.vcnt.toNat = Config.domain) ∧
  (s.vstate = .fail → s.vcnt.toNat ≤ Config.domain - 1)

/-- R150: every event is at a multiple of the interval, with the percentage of its index. -/
abbrev TraceInv (s : State) : Prop :=
  ∀ e ∈ s.ptrace, e.idx.toNat % Config.progInterval = 0 ∧ e.pct.toNat = 100 * e.idx.toNat / Config.domain

/-- R64: a non-OK response has data 0. -/
abbrev ResponsesInv (s : State) : Prop := ∀ r ∈ s.responses, r.status ≠ .ok → r.data = 0

/-- R20, R24: without a verifier PTRACE is empty; the model's unused VSTATE and VCNT stay at their reset values (log 6). -/
abbrev AbsentInv (s : State) : Prop :=
  s.params.hasVerifier = false → s.vstate = .idle ∧ s.vcnt = 0 ∧ s.ptrace = []

/-- The invariant every step keeps. -/
abbrev StateInv (s : State) : Prop := SweepInv s ∧ TraceInv s ∧ ResponsesInv s ∧ AbsentInv s

/-- The next state of an outcome, if it is one. -/
def nextState (o : Host.Outcome State Fault Refusal) : Option State :=
  match o with
  | .next s => some s
  | .fault _ => none
  | .refused _ => none

/-- A run is safe while no sweep has failed (R146, R201). -/
abbrev Safe (s : State) : Prop := s.vstate ≠ .fail

/-- An infinite execution: the states and the turns taken between them (R246, R247). It is no part of the state; the
turns here take the place of the list `turns`, which `takeTurn` leaves alone. -/
abbrev IsExecution (states : Nat → State) (turns : Nat → Turn) : Prop :=
  ∀ n, takeTurn (turns n) (states n) = .next (states (n + 1))

/-- R248: the verifier is weakly fair. If it stays enabled, it takes a step eventually. -/
abbrev WeaklyFair (states : Nat → State) (turns : Nat → Turn) : Prop :=
  ∀ n, (∀ m, n ≤ m → verifierEnabled (states m) = true) → ∃ m, n ≤ m ∧ turns m = .verifier

/-- How many of the `k` turns from turn `n` on are the verifier's. -/
def verifierTurns (turns : Nat → Turn) (n : Nat) : Nat → Nat
  | 0 => 0
  | k + 1 => verifierTurns turns n k + (if turns (n + k) = .verifier then 1 else 0)

end Sys2Proof.Machine
end

