-- ==== Sys2Proof/Certificates/Slice0/Obligations.lean ====
section
/-! DEFINITION. The statements about WHB32 for the provers. Statements that rest on a choice of the model name the log
entry; the rest rest on the rules their docstrings name. -/

open Sys2Proof Sys2Proof.Machine

/-! ### Encoding -/

/-- Command words written out in 95_test_vectors (3.5, P1, P2) decode to the commands they stand for. -/
def Obligations.WrittenCommandWordsDecode : Prop :=
  decode 0x1499602D3 = .instr (.hash 0x499602D3) ∧
  decode 0x2B7824561 = .instr (.unhash 0xB7824561) ∧
  decode 0x3DEADBEEF = .instr (.vstart 0xDEADBEEF) ∧
  decode 0x400000000 = .instr (.vstat 0) ∧
  decode 0x500000000 = .instr (.vcount 0) ∧
  decode 0x000000000 = .reserved 0x0 ∧
  decode 0x612345678 = .reserved 0x6 ∧
  decode 0xFFFFFFFFF = .reserved 0xF

/-- Decoding the word of a command gives the command back, with every argument (R60, R63). -/
def Obligations.DecodeOfEncodeIsTheCommand : Prop :=
  ∀ i : Instr, decode (encode i) = .instr i

/-- Each word that is a defined command is the word of that command alone, no bit dropped (R60, R63). -/
def Obligations.EncodeOfDecodeIsTheWord : Prop :=
  ∀ (c : Cmd) (i : Instr), decode c = .instr i → encode i = c

/-- The decoder is the opcode table: a word decodes to a command exactly when it matches the command's row under the
row's mask and carries the command's argument (opcode_table.json). -/
def Obligations.DecodeAgreesWithOpcodeTable : Prop :=
  ∀ (c : Cmd) (i : Instr), decode c = .instr i ↔ (c &&& tableMask = i.tableMatch ∧ cmdArg c = i.arg)

/-- R65 and R66: opcodes 0x1 to 0x5 are defined with every argument; 0x0 and 0x6 to 0xF are reserved, and a reserved
command responds ILLEGAL_OP with data 0 and changes nothing else, whatever the argument and the state. -/
def Obligations.ReservedOpcodesRespondIllegalOp : Prop :=
  ∀ (op : BitVec 4) (arg : Word) (s : State),
    (1 ≤ op.toNat ∧ op.toNat ≤ 5 →
      ∃ i, decode (packCmd op arg) = .instr i ∧ i.opcode = op ∧ i.arg = arg) ∧
    (op.toNat = 0 ∨ 6 ≤ op.toNat →
      decode (packCmd op arg) = .reserved op ∧
      acceptCommand (packCmd op arg) s =
        .next { s with responses := s.responses ++ [{ status := .illegalOp, data := 0 }] })

/-- A number of the opcode table's numbering is decoded as the 36-bit command it is, bits above 35 are refused, and a
state given that word runs the command at the very next step (the model's own entry points, log 8). -/
def Obligations.TableWordIsTheNextCommand : Prop :=
  ∀ (s : State) (nbits w : Nat) (i : Instr),
    (decodeTableWord nbits w = some i ↔
      w % 2 ^ nbits < 2 ^ 36 ∧ decode (BitVec.ofNat 36 (w % 2 ^ nbits)) = .instr i) ∧
    (decodeTableWord nbits w = some i → step (s.withFetchWord nbits w) = exec i s)

/-! ### The engines -/

/-- R100 in plain natural-number arithmetic modulo 2^32: the six forward stages in series. -/
def Obligations.HashIsTheSixStages : Prop :=
  ∀ x : Word,
    let k0 := x.toNat
    let k1 := (k0 + (4294967295 - k0 * 2 ^ 15 % 4294967296)) % 4294967296
    let k2 := k1 ^^^ (k1 / 2 ^ 10)
    let k3 := (k2 + k2 * 2 ^ 3 % 4294967296) % 4294967296
    let k4 := k3 ^^^ (k3 / 2 ^ 6)
    let k5 := (k4 + (4294967295 - k4 * 2 ^ 11 % 4294967296)) % 4294967296
    let k6 := k5 ^^^ (k5 / 2 ^ 16)
    (hash32 x).toNat = k6

/-- R120 in plain natural-number arithmetic modulo 2^32: the six inverse steps with the normative constants. -/
def Obligations.UnhashIsTheSixInverseSteps : Prop :=
  ∀ y : Word,
    let k6 := y.toNat
    let k5 := k6 ^^^ (k6 / 2 ^ 16)
    let k4 := 4290770943 * (4294967295 - k5) % 4294967296
    let k3 := k4 ^^^ (k4 / 2 ^ 6) ^^^ (k4 / 2 ^ 12) ^^^ (k4 / 2 ^ 18) ^^^ (k4 / 2 ^ 24) ^^^ (k4 / 2 ^ 30)
    let k2 := 954437177 * k3 % 4294967296
    let k1 := k2 ^^^ (k2 / 2 ^ 10) ^^^ (k2 / 2 ^ 20) ^^^ (k2 / 2 ^ 30)
    let k0 := 3221192703 * (4294967295 - k1) % 4294967296
    (unhash32 y).toNat = k0

/-- Stages 1, 3 and 5 have the source's multiply forms on every word (40_forward_hash section 1, an inference the spec
marks as its own: "The two forms agree on every word"). -/
def Obligations.ForwardStagesHaveMultiplyForms : Prop :=
  ∀ k : Word, fwdStage1 k = -(32767 * k) - 1 ∧ fwdStage3 k = 9 * k ∧ fwdStage5 k = -(2047 * k) - 1

/-- Stages 2, 4 and 6 bit by bit: the high bits stay, each lower bit is xored with the bit 10, 6 or 16 above it
(40_forward_hash section 1, an inference the spec marks as its own). -/
def Obligations.XorShiftStagesBitByBit : Prop :=
  ∀ (k : Word) (j : Nat), j < 32 →
    (fwdStage2 k).getLsbD j = (if j < 22 then k.getLsbD j ^^ k.getLsbD (j + 10) else k.getLsbD j) ∧
    (fwdStage4 k).getLsbD j = (if j < 26 then k.getLsbD j ^^ k.getLsbD (j + 6) else k.getLsbD j) ∧
    (fwdStage6 k).getLsbD j = (if j < 16 then k.getLsbD j ^^ k.getLsbD (j + 16) else k.getLsbD j)

/-- R121: for every shift from 1 to 31 the cascade, the identity and one term for each multiple of the shift below 32,
inverts the xor-shift stage; for 16, 6 and 10 the largest multiples have m = 1, 5 and 3. -/
def Obligations.CascadeInvertsXorShift : Prop :=
  (∀ (s : Nat) (y : Word), 1 ≤ s ∧ s ≤ 31 →
    ∃ m, m * s < 32 ∧ 32 ≤ (m + 1) * s ∧
      (s = 16 → m = 1) ∧ (s = 6 → m = 5) ∧ (s = 10 → m = 3) ∧
      cascade s y = (List.range (m + 1)).foldl (fun acc j => acc ^^^ (y >>> (j * s))) 0) ∧
  (∀ (s : Nat) (x : Word), 1 ≤ s ∧ s ≤ 31 → cascade s (x ^^^ (x >>> s)) = x)

/-- Each inverse step undoes its forward stage, and the three xor-shift steps are the cascades of their shifts
(41_inverse_unhash section 1; the algebra is an inference the spec marks as its own). -/
def Obligations.InverseStepsUndoTheStages : Prop :=
  ∀ k : Word,
    invStep1 (fwdStage6 k) = k ∧ invStep2 (fwdStage5 k) = k ∧ invStep3 (fwdStage4 k) = k ∧
    invStep4 (fwdStage3 k) = k ∧ invStep5 (fwdStage2 k) = k ∧ invStep6 (fwdStage1 k) = k ∧
    invStep1 k = cascade 16 k ∧ invStep3 k = cascade 6 k ∧ invStep5 k = cascade 10 k

/-- The form of 90_conflicts C1: with the multipliers of `-(2^s - 1)` the operand is `y + 1`, and with the complement as
operand, as the source's prose says, they do not invert the stages. -/
def Obligations.ComplementInverseNeedsPlusOneForm : Prop :=
  (∀ y : Word, invStep6 y = 1073774593 * (y + 1) ∧ invStep2 y = 4196353 * (y + 1)) ∧
  (∃ x : Word, 1073774593 * ~~~(fwdStage1 x) ≠ x) ∧ (∃ x : Word, 4196353 * ~~~(fwdStage5 x) ≠ x)

/-- The source's contract: `unhash32(hash32(x)) == x` for every word (41_inverse_unhash section 1). -/
def Obligations.UnhashInvertsHash : Prop :=
  ∀ x : Word, unhash32 (hash32 x) = x

/-- The other direction, and both transforms are bijections on the words (41_inverse_unhash section 1,
40_forward_hash section 1; inferences the spec marks as its own). -/
def Obligations.HashAndUnhashAreBijections : Prop :=
  (∀ y : Word, hash32 (unhash32 y) = y) ∧ Function.Bijective hash32 ∧ Function.Bijective unhash32

/-! ### The commands -/

/-- R110: HASH has opcode 0x1 and completes in every state, verifier or not, sweep or not, with OK and `hash32(arg)`;
nothing but the response is added. (The corner values R110 lists, which it marks derived, are the author's tests.) -/
def Obligations.HashRespondsHash32 : Prop :=
  ∀ (arg : Word) (s : State),
    cmdOp (encode (.hash arg)) = 0x1 ∧ cmdArg (encode (.hash arg)) = arg ∧
    exec (.hash arg) s = .next { s with responses := s.responses ++ [{ status := .ok, data := hash32 arg }] }

/-- R130: UNHASH has opcode 0x2 and completes in every state with OK and `unhash32(arg)`; nothing but the response is
added. (The corner values R130 lists, which it marks derived, are the author's tests.) -/
def Obligations.UnhashRespondsUnhash32 : Prop :=
  ∀ (arg : Word) (s : State),
    cmdOp (encode (.unhash arg)) = 0x2 ∧ cmdArg (encode (.unhash arg)) = arg ∧
    exec (.unhash arg) s = .next { s with responses := s.responses ++ [{ status := .ok, data := unhash32 arg }] }

/-- R21 and R202: the result of HASH and of UNHASH depends on the argument alone, in whatever state, and is never an
error; no item of the block's state is written. -/
def Obligations.TransformsReadAndWriteNoState : Prop :=
  ∀ arg : Word, ∃ h u : Word, ∀ s : State,
    exec (.hash arg) s = .next { s with responses := s.responses ++ [{ status := .ok, data := h }] } ∧
    exec (.unhash arg) s = .next { s with responses := s.responses ++ [{ status := .ok, data := u }] }

/-- R141: VSTART, opcode 0x3, with a verifier and any argument: from IDLE or PASS it starts a sweep at 0 with OK and keeps
PTRACE; while RUNNING it gets BUSY, in FAIL it gets FAILED, and nothing is written; without a verifier it gets
UNSUPPORTED. A second VSTART gets BUSY, for the first has left the block RUNNING. -/
def Obligations.VstartStartsOrIsTurnedAway : Prop :=
  ∀ (arg arg2 : Word) (s : State),
    cmdOp (encode (.vstart arg)) = 0x3 ∧
    (s.params.hasVerifier = true → s.vstate = .idle ∨ s.vstate = .pass →
      ∃ t, exec (.vstart arg) s = .next t ∧
        t = { s with vstate := .running, vcnt := 0,
                     responses := s.responses ++ [{ status := .ok, data := 0 }] } ∧
        exec (.vstart arg2) t = .next { t with responses := t.responses ++ [{ status := .busy, data := 0 }] }) ∧
    (s.params.hasVerifier = true → s.vstate = .running →
      exec (.vstart arg) s = .next { s with responses := s.responses ++ [{ status := .busy, data := 0 }] }) ∧
    (s.params.hasVerifier = true → s.vstate = .fail →
      exec (.vstart arg) s = .next { s with responses := s.responses ++ [{ status := .failed, data := 0 }] }) ∧
    (s.params.hasVerifier = false →
      exec (.vstart arg) s = .next { s with responses := s.responses ++ [{ status := .unsupported, data := 0 }] })

/-- R160: VSTAT, opcode 0x4, with a verifier and any argument completes in every state with OK and the status word
`(pct << 3) | (VCNT[32] << 2) | VSTATE`, writing nothing; for a counter up to 2^32 (R23) the word is that number exactly,
0 after reset, 1 just after VSTART and 0x326 in PASS at 2^32; without a verifier it gets UNSUPPORTED. While RUNNING two reads may differ, for a verifier step can change the word. -/
def Obligations.VstatRespondsStatusWord : Prop :=
  (∀ (arg : Word) (s : State),
    cmdOp (encode (.vstat arg)) = 0x4 ∧
    (s.params.hasVerifier = true →
      ∃ w : Word,
        exec (.vstat arg) s = .next { s with responses := s.responses ++ [{ status := .ok, data := w }] } ∧
        (s.vcnt.toNat ≤ 4294967296 →
          w.toNat = 8 * (100 * s.vcnt.toNat / 2 ^ 32) + 4 * (s.vcnt.toNat / 2 ^ 32) + s.vstate.code.toNat) ∧
        (s.vstate = .idle → s.vcnt = 0 → w = 0) ∧ (s.vstate = .running → s.vcnt = 0 → w = 1) ∧
        (s.vstate = .pass → s.vcnt.toNat = 4294967296 → w = 0x326)) ∧
    (s.params.hasVerifier = false →
      exec (.vstat arg) s = .next { s with responses := s.responses ++ [{ status := .unsupported, data := 0 }] })) ∧
  (∃ s : State, verifierEnabled s = true ∧ statusWord (verifierStep s) ≠ statusWord s)

/-- The fields of the status word (10_state section 3): STATE in bits 1:0 with the codes of R22, CNT_HI in bit 2, PCT in
bits 9:3, zero in bits 31:10. Bits 1:0, 2 and 31:10 hold in every state; PCT is the exact percentage for a counter up to
2^32 (above it, log 7), and it is 100 exactly when the counter is 2^32. -/
def Obligations.StatusWordFields : Prop :=
  ∀ s : State,
    (statusWord s).extractLsb' 0 2 = s.vstate.code ∧ VState.ofCode s.vstate.code = s.vstate ∧
    (statusWord s).extractLsb' 2 1 = s.vcnt.extractLsb' 32 1 ∧
    (statusWord s).extractLsb' 10 22 = 0 ∧
    (s.vcnt.toNat ≤ 4294967296 →
      ((statusWord s).extractLsb' 3 7).toNat = 100 * s.vcnt.toNat / 2 ^ 32 ∧
      (((statusWord s).extractLsb' 3 7).toNat = 100 ↔ s.vcnt.toNat = 4294967296))

/-- R161 and R27: VCOUNT, opcode 0x5, with a verifier and any argument completes in every state with OK and the low 32 bits
of VCNT, 0 at 2^32 and the index itself below; nothing is written; without a verifier it gets UNSUPPORTED. With CNT_HI the
two reads give all 33 bits. -/
def Obligations.VcountRespondsLowBits : Prop :=
  ∀ (arg : Word) (s : State),
    cmdOp (encode (.vcount arg)) = 0x5 ∧
    (s.params.hasVerifier = true →
      ∃ w : Word,
        exec (.vcount arg) s = .next { s with responses := s.responses ++ [{ status := .ok, data := w }] } ∧
        w.toNat = s.vcnt.toNat % 4294967296 ∧
        (s.vcnt.toNat = 4294967296 → w = 0) ∧
        (s.vcnt.toNat < 4294967296 → w.toNat = s.vcnt.toNat) ∧
        s.vcnt.toNat = 4294967296 * ((statusWord s).extractLsb' 2 1).toNat + w.toNat) ∧
    (s.params.hasVerifier = false →
      exec (.vcount arg) s = .next { s with responses := s.responses ++ [{ status := .unsupported, data := 0 }] })

/-- R67: without a verifier VSTART, VSTAT and VCOUNT change no state and respond UNSUPPORTED with data 0; HASH and UNHASH
respond as they do with one. -/
def Obligations.AbsentVerifierRespondsUnsupported : Prop :=
  ∀ (arg : Word) (s : State), s.params.hasVerifier = false →
    (∀ i ∈ [Instr.vstart arg, Instr.vstat arg, Instr.vcount arg],
      exec i s = .next { s with responses := s.responses ++ [{ status := .unsupported, data := 0 }] }) ∧
    (∀ i ∈ [Instr.hash arg, Instr.unhash arg], ∀ p : State, p.params.hasVerifier = true →
      ∃ r : Response, exec i s = .next { s with responses := s.responses ++ [r] } ∧
        exec i p = .next { p with responses := p.responses ++ [r] })

/-- R200 and R64: every command word of every state gets exactly one response and never stops the machine; its status is
the one of the table of R200, tested in the order ILLEGAL_OP, UNSUPPORTED, BUSY, FAILED; a non-OK response has data 0 and
writes nothing else; the status codes are 0 to 4, and 5, 6 and 7 stand for no status. -/
def Obligations.EveryCommandGetsItsStatus : Prop :=
  (∀ (c : Cmd) (s : State), ∃ (r : Response) (t : State),
    acceptCommand c s = .next t ∧ t.responses = s.responses ++ [r] ∧
    r.status =
      (if (cmdOp c).toNat = 0 ∨ 6 ≤ (cmdOp c).toNat then .illegalOp
       else if 3 ≤ (cmdOp c).toNat ∧ s.params.hasVerifier = false then .unsupported
       else if (cmdOp c).toNat = 3 ∧ s.vstate = .running then .busy
       else if (cmdOp c).toNat = 3 ∧ s.vstate = .fail then .failed
       else .ok) ∧
    (r.status ≠ .ok → r.data = 0 ∧ t = { s with responses := s.responses ++ [r] })) ∧
  (Status.ok.code = 0 ∧ Status.illegalOp.code = 1 ∧ Status.unsupported.code = 2 ∧ Status.busy.code = 3 ∧
    Status.failed.code = 4) ∧
  (∀ st : Status, Status.ofCode st.code = some st) ∧
  (Status.ofCode 5 = none ∧ Status.ofCode 6 = none ∧ Status.ofCode 7 = none)

/-- R63 and R64: a step on the host's turn gives exactly one response, after all earlier ones, and its data is 0 on a
non-OK status, ILLEGAL_OP on a reserved opcode, and the result of the opcode map on OK (0 for VSTART); a step that is not the host's gives none. -/
def Obligations.ResponsesInCommandOrder : Prop :=
  ∀ s t : State, step s = .next t →
    (∀ c rest, s.turns = .host c :: rest →
      ∃ r : Response, t.responses = s.responses ++ [r] ∧
        (r.status ≠ .ok → r.data = 0) ∧
        ((cmdOp c).toNat = 0 ∨ 6 ≤ (cmdOp c).toNat → r.status = .illegalOp) ∧
        (r.status = .ok →
          r.data =
            (if cmdOp c = 1 then hash32 (cmdArg c)
             else if cmdOp c = 2 then unhash32 (cmdArg c)
             else if cmdOp c = 4 then statusWord s
             else if cmdOp c = 5 then trunc32 s.vcnt
             else 0))) ∧
    ((∀ c rest, s.turns ≠ .host c :: rest) → t.responses = s.responses)

/-- The frame of the five commands: HASH, UNHASH, VSTAT and VCOUNT write nothing but the response, and VSTART besides it
only VSTATE and VCNT; no command touches the progress trace, the parameters, the inputs still to come or an earlier
response. The block has no registers, flags or memory to leave alone (R29, R40). -/
def Obligations.CommandFrame : Prop :=
  ∀ (i : Instr) (s t : State), exec i s = .next t →
    t.ptrace = s.ptrace ∧ t.params = s.params ∧ t.turns = s.turns ∧
    (∃ r, t.responses = s.responses ++ [r]) ∧
    ((∀ a, i ≠ .vstart a) → t.vstate = s.vstate ∧ t.vcnt = s.vcnt)

/-! ### Steps -/

/-- A step on the host's turn takes the turn off and runs the decoded command (log 2). -/
def Obligations.StepRunsTheDecodedCommand : Prop :=
  ∀ (s : State) (c : Cmd) (rest : List Turn) (i : Instr),
    s.turns = .host c :: rest → decode c = .instr i → step s = exec i { s with turns := rest }

/-- A step on the host's turn with a reserved opcode takes the turn off and responds ILLEGAL_OP (log 2). -/
def Obligations.StepAnswersAReservedOpcode : Prop :=
  ∀ (s : State) (c : Cmd) (rest : List Turn) (op : BitVec 4),
    s.turns = .host c :: rest → decode c = .reserved op →
      step s = .next { s with turns := rest,
                              responses := s.responses ++ [{ status := .illegalOp, data := 0 }] }

/-- The verifier's step in RUNNING (42_verifier section 2), on its turn or with no turn waiting (the latter is the model's,
log 2), at an index up to 2^32 - 1 (10_state section 3): it emits the progress event of the index if it is due, then checks
the index; a mismatch sets FAIL and keeps the counter, else the counter advances and 2^32 is PASS; nothing else of the block
is written. -/
def Obligations.VerifierStepTestsOneIndex : Prop :=
  ∀ s : State, (s.turns = [] ∨ ∃ rest, s.turns = .verifier :: rest) → s.params.hasVerifier = true →
    s.vstate = .running → s.vcnt.toNat ≤ 4294967295 →
    ∃ t, step s = .next t ∧
      t.ptrace = s.ptrace ++
        (if s.vcnt.toNat % 100000000 = 0 then
          [{ idx := BitVec.ofNat 32 s.vcnt.toNat, pct := BitVec.ofNat 7 (100 * s.vcnt.toNat / 2 ^ 32) }] else []) ∧
      (unhash32 (hash32 (BitVec.ofNat 32 s.vcnt.toNat)) ≠ BitVec.ofNat 32 s.vcnt.toNat →
        t.vstate = .fail ∧ t.vcnt = s.vcnt) ∧
      (unhash32 (hash32 (BitVec.ofNat 32 s.vcnt.toNat)) = BitVec.ofNat 32 s.vcnt.toNat →
        t.vcnt.toNat = s.vcnt.toNat + 1 ∧
        t.vstate = (if s.vcnt.toNat + 1 = 4294967296 then .pass else .running)) ∧
      t.params = s.params ∧ t.turns = s.turns.tail ∧ t.responses = s.responses

/-- The FAIL branch with a datapath that departs from the rules (the round trip as an argument is the model's choice,
log 9): the step that finds the mismatch sets FAIL with VCNT the failing index, after its progress event, and the verifier
then has no step, so no later index is tested. -/
def Obligations.MismatchEndsTheSweep : Prop :=
  ∀ (rt : Word → Word) (s : State), rt (trunc32 s.vcnt) ≠ trunc32 s.vcnt →
    verifierStepWith rt s =
      { s with vstate := .fail, vcnt := s.vcnt,
               ptrace := s.ptrace ++
                 (if s.vcnt.toNat % 100000000 = 0 then [progressAt s.vcnt] else []) } ∧
    verifierEnabled (verifierStepWith rt s) = false ∧
    (s.params.hasVerifier = true → verDone (verifierStepWith rt s) = true ∧ verPass (verifierStepWith rt s) = false)

/-- On its turn, and when no turn waits (the latter is the model's, log 2), the verifier has a step exactly when it is
present and VSTATE is RUNNING, whatever commands wait behind it (42_verifier section 2). -/
def Obligations.VerifierHasAStepExactlyWhenRunning : Prop :=
  ∀ s : State, (s.turns = [] ∨ ∃ rest, s.turns = .verifier :: rest) →
    ((∃ t, step s = .next t) ↔ s.params.hasVerifier = true ∧ s.vstate = .running)

/-- No step refuses, and a step stops only where no agent has one: a turn given to a verifier without a step, or no turn
waiting and the verifier without a step, the end of a run (the two stops are the model's, log 3). -/
def Obligations.OnlyAScheduleStopsTheMachine : Prop :=
  ∀ s : State,
    (∀ r, step s ≠ .refused r) ∧
    (∀ f, step s = .fault f ↔
      verifierEnabled s = false ∧
        ((s.turns = [] ∧ f = .runOver) ∨ (∃ rest, s.turns = .verifier :: rest ∧ f = .verifierHasNoStep)))

/-- R240: the platform's turn, in every state, writes VSTATE IDLE and VCNT 0 and changes nothing else, PTRACE included;
both outputs become 0; reset is the only step that leaves FAIL, and the only one that stops a running sweep without PASS
or FAIL. -/
def Obligations.ResetStepWritesResetValues : Prop :=
  (∀ (s : State) (rest : List Turn), s.turns = .platform :: rest →
    ∃ t, step s = .next t ∧ t = { s with turns := rest, vstate := .idle, vcnt := 0 } ∧
      verDone t = false ∧ verPass t = false) ∧
  (∀ s t : State, step s = .next t → (∀ rest, s.turns ≠ .platform :: rest) →
    (s.vstate = .fail → t.vstate = .fail ∧ t.vcnt = s.vcnt) ∧
    (s.vstate = .running → t.vstate = .running ∨ t.vstate = .pass ∨ t.vstate = .fail))

/-- R31: after reset, with any parameters, and after a reset step in any state, VSTATE is IDLE and VCNT is 0, so the
status word is 0 and both outputs are 0; the reset step does not clear PTRACE. -/
def Obligations.StateAfterReset : Prop :=
  ∀ (p : Config.Params) (s : State),
    (∀ t ∈ [State.afterReset p, applyReset s],
      t.vstate = .idle ∧ t.vcnt = 0 ∧ verDone t = false ∧ verPass t = false ∧ statusWord t = 0) ∧
    (applyReset s).ptrace = s.ptrace ∧ (State.afterReset p).params = p

/-- The invariant holds after reset, with any parameters (10_state section 1, an inference the spec marks as its own). -/
def Obligations.InvariantHoldsAfterReset : Prop :=
  ∀ p : Config.Params, StateInv (State.afterReset p)

/-- Every step keeps the invariant: VCNT is what VSTATE allows, every event has its index and percentage, every non-OK
response has data 0, and a block without a verifier has an empty trace (10_state section 3, an inference the spec marks as
its own; the clause on the unused VSTATE and VCNT is the model's, log 6). -/
def Obligations.EveryStepKeepsTheInvariant : Prop :=
  ∀ s t : State, StateInv s → step s = .next t → StateInv t

/-- FAIL is never entered with these datapaths: no step leads from a state that is not FAIL to FAIL (42_verifier section 2,
60_exceptions section 1, an inference the spec marks as its own). -/
def Obligations.FailIsNeverEntered : Prop :=
  ∀ s t : State, Safe s → step s = .next t → Safe t

/-- R24: no step removes or changes an event; only the verifier's step adds one, at most one; without a verifier an empty
trace stays empty. -/
def Obligations.ProgressTraceIsAppendOnly : Prop :=
  ∀ s t : State, step s = .next t →
    ∃ new : List Progress, t.ptrace = s.ptrace ++ new ∧ new.length ≤ 1 ∧
      (new ≠ [] → (s.turns = [] ∨ ∃ rest, s.turns = .verifier :: rest) ∧ verifierEnabled s = true) ∧
      (s.params.hasVerifier = false → new = [])

/-- Only VSTART, the verifier's step and reset write VSTATE or VCNT (10_state section 2). -/
def Obligations.OnlyThreeStepsWriteTheVerifier : Prop :=
  ∀ s t : State, step s = .next t → t.vstate ≠ s.vstate ∨ t.vcnt ≠ s.vcnt →
    (∃ a rest, s.turns = .host (encode (.vstart a)) :: rest ∧ (s.vstate = .idle ∨ s.vstate = .pass)) ∨
    ((s.turns = [] ∨ ∃ rest, s.turns = .verifier :: rest) ∧ s.vstate = .running) ∨
    (∃ rest, s.turns = .platform :: rest)

/-- R142: a sweep never starts on its own. A step from a state that is not RUNNING leaves VSTATE and VCNT alone unless it
is a VSTART from IDLE or PASS, which alone starts a sweep, or a reset. -/
def Obligations.SweepStartsOnlyByVstart : Prop :=
  ∀ s t : State, step s = .next t → s.vstate ≠ .running →
    (t.vstate = .running →
      ∃ a rest, s.turns = .host (encode (.vstart a)) :: rest ∧ (s.vstate = .idle ∨ s.vstate = .pass)) ∧
    (t.vstate ≠ .running → (∀ rest, s.turns ≠ .platform :: rest) → t.vstate = s.vstate ∧ t.vcnt = s.vcnt)

/-- R162: no command cancels, suspends or pauses a running sweep: it leaves VSTATE, VCNT and PTRACE as they are and the
verifier enabled; and from RUNNING any step but a reset leaves RUNNING with the verifier enabled, or ends in PASS or
FAIL. -/
def Obligations.NoCommandStopsASweep : Prop :=
  (∀ (c : Cmd) (s t : State), s.params.hasVerifier = true → s.vstate = .running → acceptCommand c s = .next t →
    t.vstate = .running ∧ t.vcnt = s.vcnt ∧ t.ptrace = s.ptrace ∧ verifierEnabled t = true) ∧
  (∀ s t : State, s.params.hasVerifier = true → s.vstate = .running → step s = .next t →
    (∀ rest, s.turns ≠ .platform :: rest) →
    (t.vstate = .running ∧ verifierEnabled t = true) ∨ t.vstate = .pass ∨ t.vstate = .fail)

/-- The rule of order of 70_reset_and_hazards section 3, with the ascending order of 42_verifier section 1: during a sweep
a step other than reset keeps VCNT or adds one, so VCNT never decreases, and VSTATE goes only from RUNNING to PASS or FAIL.
The premise on VCNT is the invariant's (`EveryStepKeepsTheInvariant`). -/
def Obligations.SweepCountsUpward : Prop :=
  ∀ s t : State, s.vstate = .running → s.vcnt.toNat ≤ 4294967295 → step s = .next t →
    (∀ rest, s.turns ≠ .platform :: rest) →
    (t.vcnt.toNat = s.vcnt.toNat ∨ t.vcnt.toNat = s.vcnt.toNat + 1) ∧ s.vcnt.toNat ≤ t.vcnt.toNat ∧
    (t.vstate = .running ∨ t.vstate = .pass ∨ t.vstate = .fail)

/-- 20_memory section 3: once a VSTART has been accepted VSTATE is not IDLE, and no step but a reset makes it IDLE
again, so a VSTAT that follows shows STATE other than 0. -/
def Obligations.StartedVerifierIsNeverIdleAgain : Prop :=
  (∀ (a : Word) (s t : State), s.params.hasVerifier = true → exec (.vstart a) s = .next t →
    t.vstate ≠ .idle ∧ (statusWord t).extractLsb' 0 2 ≠ 0) ∧
  (∀ s t : State, s.vstate ≠ .idle → step s = .next t → (∀ rest, s.turns ≠ .platform :: rest) →
    t.vstate ≠ .idle ∧ (statusWord t).extractLsb' 0 2 ≠ 0)

/-- A sweep left to run passes after exactly the steps that remain: from RUNNING at an index below 2^32, with no turn
waiting, the block is RUNNING at each earlier count and, after 2^32 - VCNT steps, PASS with VCNT = 2^32, ver_done and
ver_pass 1, and no response given (42_verifier section 2, an inference the spec marks as its own; that an enabled verifier
steps when no turn waits is log 2). -/
def Obligations.SweepPassesAfterExactlyAllSteps : Prop :=
  ∀ (s : State) (k : Nat), s.turns = [] → s.params.hasVerifier = true → s.vstate = .running →
    0 < k → s.vcnt.toNat + k = 4294967296 →
    (∀ j, j < k → ∃ t : State, Sys2Proof.core.run j s = .next t ∧ t.vstate = .running ∧
      t.vcnt.toNat = s.vcnt.toNat + j) ∧
    ∃ t : State, Sys2Proof.core.run k s = .next t ∧ t.vstate = .pass ∧ t.vcnt.toNat = 4294967296 ∧
      verDone t = true ∧ verPass t = true ∧ t.params = s.params ∧ t.responses = s.responses

/-- Every order of the agents (70_reset_and_hazards section 2): whatever commands the host puts between the verifier's
steps, as long as there is no reset, a running sweep passes with the last of the steps that remain, and every command on
the way has had one response (42_verifier section 2, an inference the spec marks as its own; the schedule as a list is
log 2). -/
def Obligations.SweepPassesUnderEveryInterleaving : Prop :=
  ∀ (s : State) (before : List Turn), s.turns = before ++ [.verifier] → .platform ∉ before →
    s.params.hasVerifier = true → s.vstate = .running →
    s.vcnt.toNat + before.count .verifier + 1 = 4294967296 →
    ∃ t : State, Sys2Proof.core.run (before.length + 1) s = .next t ∧ t.vstate = .pass ∧
      t.vcnt.toNat = 4294967296 ∧ t.turns = [] ∧
      t.responses.length + before.count .verifier = s.responses.length + before.length

/-- In every infinite execution without a reset in which the verifier is weakly fair, a sweep started by VSTART reaches
PASS, with VCNT = 2^32, after exactly 2^32 verifier steps, however the host's commands fall between them
(70_reset_and_hazards section 2; that an execution is a sequence of states and turns over `takeTurn` is the model's,
log 12). -/
def Obligations.FairSweepReachesPass : Prop :=
  ∀ (states : Nat → State) (turns : Nat → Turn) (n : Nat) (a : Word),
    IsExecution states turns → WeaklyFair states turns → (∀ m, turns m ≠ .platform) →
    (states n).params.hasVerifier = true → (states n).vstate = .idle ∨ (states n).vstate = .pass →
    turns n = .host (encode (.vstart a)) →
    ∃ k, (states (n + 1 + k)).vstate = .pass ∧ (states (n + 1 + k)).vcnt.toNat = 4294967296 ∧
      verifierTurns turns (n + 1) k = 4294967296 ∧
      ∀ j, j < k → (states (n + 1 + j)).vstate = .running

/-- A whole sweep from index 0 adds exactly the 43 events at 0, 10^8, ..., 42 * 10^8, in order, each with the percentage
of its index, to whatever the trace held, and ends in PASS: whatever commands the host puts between the verifier's steps, as
long as there is no reset, and with no turn waiting (42_verifier section 3, an inference the spec marks as its own, and the
end state of P2 in 95_test_vectors section 4; the schedule as a list, and the verifier stepping when it is empty, are
log 2). -/
def Obligations.FullSweepEmitsFortyThreeEvents : Prop :=
  ∀ s : State, s.params.hasVerifier = true → s.vstate = .running → s.vcnt = 0 →
    (∀ before : List Turn, s.turns = before ++ [.verifier] → .platform ∉ before →
      before.count .verifier + 1 = 4294967296 →
      ∃ t : State, Sys2Proof.core.run (before.length + 1) s = .next t ∧ t.vstate = .pass ∧
        t.ptrace = s.ptrace ++ (List.range 43).map (fun j =>
          { idx := BitVec.ofNat 32 (100000000 * j), pct := BitVec.ofNat 7 (100 * (100000000 * j) / 2 ^ 32) })) ∧
    (∀ k : Nat, s.turns = [] → k = 4294967296 →
      ∃ t : State, Sys2Proof.core.run k s = .next t ∧ t.vstate = .pass ∧
        t.ptrace = s.ptrace ++ (List.range 43).map (fun j =>
          { idx := BitVec.ofNat 32 (100000000 * j), pct := BitVec.ofNat 7 (100 * (100000000 * j) / 2 ^ 32) }))

/-- HASH and UNHASH never wait for the verifier and the verifier never waits for them (42_verifier section 2): run before
or after the verifier's step of a running sweep, in either order, both complete and lead to the same state. -/
def Obligations.TransformsCommuteWithTheVerifier : Prop :=
  ∀ (a : Word) (i : Instr) (s : State) (rest : List Turn), i = .hash a ∨ i = .unhash a →
    s.params.hasVerifier = true → s.vstate = .running →
    ∃ t : State,
      Sys2Proof.core.run 2 { s with turns := .host (encode i) :: .verifier :: rest } = .next t ∧
      Sys2Proof.core.run 2 { s with turns := .verifier :: .host (encode i) :: rest } = .next t

/-- No rule depends on the latencies, on RESET_STYLE or on PROG_BACKPRESSURE (00_scope section 4): with other values of
them, HAS_VERIFIER the same, a step stops for the same reason or leads to the same state but for those values. -/
def Obligations.OtherParametersAreNeverRead : Prop :=
  ∀ (s : State) (p : Config.Params), p.hasVerifier = s.params.hasVerifier →
    (∀ t, step s = .next t → step { s with params := p } = .next { t with params := p }) ∧
    (∀ f, step s = .fault f → step { s with params := p } = .fault f) ∧
    (∀ t, step s = .next t → t.params = s.params)

/-- Without a verifier the block has no VSTATE and no VCNT (10_state section 1): what the model's two unused fields hold
(log 6) can be seen in no response, event, output or stop of any step. -/
def Obligations.AbsentVerifierStateIsInvisible : Prop :=
  ∀ (s : State) (v : VState) (n : Count), s.params.hasVerifier = false →
    verDone s = false ∧ verPass s = false ∧
    (∀ t, step s = .next t →
      ∃ t', step { s with vstate := v, vcnt := n } = .next t' ∧ t'.responses = t.responses ∧
        t'.ptrace = t.ptrace ∧ t.ptrace = s.ptrace ∧ t'.turns = t.turns ∧ t'.params = t.params) ∧
    (∀ f, step s = .fault f → step { s with vstate := v, vcnt := n } = .fault f)

/-- R25, with the rule of change of 60_exceptions section 3: ver_done is 1 exactly in PASS and FAIL, ver_pass exactly in
PASS, and both are 0 without a verifier; ver_done rises only by the verifier's step and falls only by a VSTART from PASS or
a reset. -/
def Obligations.DoneAndPassOutputs : Prop :=
  (∀ s : State,
    (verDone s = true ↔ s.params.hasVerifier = true ∧ (s.vstate = .pass ∨ s.vstate = .fail)) ∧
    (verPass s = true ↔ s.params.hasVerifier = true ∧ s.vstate = .pass)) ∧
  (∀ s t : State, step s = .next t →
    (verDone s = false → verDone t = true →
      (s.turns = [] ∨ ∃ rest, s.turns = .verifier :: rest) ∧ verifierEnabled s = true) ∧
    (verDone s = true → verDone t = false →
      (∃ rest, s.turns = .platform :: rest) ∨
      (s.vstate = .pass ∧ ∃ a rest, s.turns = .host (encode (.vstart a)) :: rest)))

/-- The ports a step presents (30_encoding section 7; the transaction-level view is the model's, log 10): a command presents
its one response, with the 3-bit code, and no event; a verifier step presents no response, and an event exactly when the
index is due; a reset presents neither, with ver_done and ver_pass 0. After every step ver_done and ver_pass are those of the
state it leads to (10_state section 2): 1 exactly in PASS and FAIL, and exactly in PASS. -/
def Obligations.PortsPresentTheStep : Prop :=
  (∀ (c : Cmd) (s : State), ∃ (r : Response) (t : State), acceptCommand c s = .next t ∧
    t.responses = s.responses ++ [r] ∧
    (outPorts s t).resp = some (r.status.code, r.data) ∧ (outPorts s t).prog = none) ∧
  (∀ s : State, (outPorts s (verifierStep s)).resp = none ∧
    (outPorts s (verifierStep s)).prog =
      (if s.vcnt.toNat % 100000000 = 0 then
        some (BitVec.ofNat 32 s.vcnt.toNat, BitVec.ofNat 7 (100 * s.vcnt.toNat / 2 ^ 32)) else none)) ∧
  (∀ s : State, outPorts s (applyReset s) = { resp := none, prog := none, verDone := false, verPass := false }) ∧
  (∀ s t : State, step s = .next t →
    (outPorts s t).verDone = verDone t ∧ (outPorts s t).verPass = verPass t ∧
    ((outPorts s t).verDone = true ↔ t.params.hasVerifier = true ∧ (t.vstate = .pass ∨ t.vstate = .fail)) ∧
    ((outPorts s t).verPass = true ↔ t.params.hasVerifier = true ∧ t.vstate = .pass))

/-- RTRIP passes on every word in every state, with or without a verifier and during a sweep, however many verifier steps
fall between its two commands, and leaves only its two responses and what those steps wrote (30_encoding section 6; the
number of steps as an argument is the model's, log 12). -/
def Obligations.RtripPassesOnEveryWord : Prop :=
  ∀ (x : Word) (gap : Nat) (s : State),
    rtrip x gap s = some (true, { verifierSteps gap s with responses := s.responses ++
      [{ status := .ok, data := hash32 x }, { status := .ok, data := x }] })

/-- VWAIT during a sweep ends with the status word of PASS as soon as the verifier has had the steps that remain, however
they fall between the polls (30_encoding section 6; the finite list of gaps is the model's, log 12). -/
def Obligations.VwaitEndsInPass : Prop :=
  ∀ (gaps : List Nat) (s : State), s.params.hasVerifier = true → s.vstate = .running →
    s.vcnt.toNat ≤ 4294967295 → 4294967296 ≤ s.vcnt.toNat + gaps.sum →
    ∃ t, vwait gaps s = some (0x326, t) ∧ t.vstate = .pass ∧ t.vcnt.toNat = 4294967296
end

