-- ==== Sys2Proof/Laws/Decode.lean ====
section
/-! SUPPORT. The fields of a packed command word, and what the decoder reads from them. -/

namespace Sys2Proof

theorem packCmd_getLsbD (op : BitVec 4) (a : Word) (i : Nat) :
    (packCmd op a).getLsbD i = (if i < 32 then a.getLsbD i else op.getLsbD (i - 32)) := by
  by_cases h : i < 32
  · have h36 : i < 36 := by omega
    simp [packCmd, h, h36]
  · by_cases h36 : i < 36
    · have ha : a.getLsbD i = false := BitVec.getLsbD_of_ge a i (by omega)
      simp [packCmd, h, h36, ha]
    · have ho : op.getLsbD (i - 32) = false := BitVec.getLsbD_of_ge op _ (by omega)
      simp [packCmd, h, h36, ho]

@[simp] theorem cmdOp_packCmd (op : BitVec 4) (a : Word) : cmdOp (packCmd op a) = op := by
  apply BitVec.eq_of_getLsbD_eq
  intro i hi
  simp [cmdOp, packCmd_getLsbD, hi]

@[simp] theorem cmdArg_packCmd (op : BitVec 4) (a : Word) : cmdArg (packCmd op a) = a := by
  apply BitVec.eq_of_getLsbD_eq
  intro i hi
  simp [cmdArg, packCmd_getLsbD, hi]

@[simp] theorem packCmd_fields (c : Cmd) : packCmd (cmdOp c) (cmdArg c) = c := by
  apply BitVec.eq_of_getLsbD_eq
  intro i hi
  rw [packCmd_getLsbD]
  split
  next h => simp [cmdArg, h]
  next h =>
    have e : 32 + (i - 32) = i := by omega
    have h4 : i - 32 < 4 := by omega
    simp [cmdOp, e, h4]

theorem cmdOp_toNat (c : Cmd) : (cmdOp c).toNat = c.toNat / 4294967296 := by
  simp only [cmdOp, BitVec.extractLsb'_toNat, Nat.shiftRight_eq_div_pow]
  omega

/-- What the decoder answers, by the opcode. -/
theorem decode_cases (c : Cmd) :
    (cmdOp c = 1 ∧ decode c = .instr (.hash (cmdArg c))) ∨
    (cmdOp c = 2 ∧ decode c = .instr (.unhash (cmdArg c))) ∨
    (cmdOp c = 3 ∧ decode c = .instr (.vstart (cmdArg c))) ∨
    (cmdOp c = 4 ∧ decode c = .instr (.vstat (cmdArg c))) ∨
    (cmdOp c = 5 ∧ decode c = .instr (.vcount (cmdArg c))) ∨
    (((cmdOp c).toNat = 0 ∨ 6 ≤ (cmdOp c).toNat) ∧ decode c = .reserved (cmdOp c)) := by
  have key : ∀ n : Nat, n < 16 → (cmdOp c).toNat = n → cmdOp c = BitVec.ofNat 4 n := by
    intro n hn h
    rw [← h]
    simp
  unfold decode
  split
  next h => exact .inl ⟨key 1 (by omega) h, rfl⟩
  next h => exact .inr (.inl ⟨key 2 (by omega) h, rfl⟩)
  next h => exact .inr (.inr (.inl ⟨key 3 (by omega) h, rfl⟩))
  next h => exact .inr (.inr (.inr (.inl ⟨key 4 (by omega) h, rfl⟩)))
  next h => exact .inr (.inr (.inr (.inr (.inl ⟨key 5 (by omega) h, rfl⟩))))
  next h1 h2 h3 h4 h5 =>
    have out : (cmdOp c).toNat = 0 ∨ 6 ≤ (cmdOp c).toNat := by
      by_contra hn
      have : (cmdOp c).toNat = 1 ∨ (cmdOp c).toNat = 2 ∨ (cmdOp c).toNat = 3 ∨ (cmdOp c).toNat = 4 ∨
        (cmdOp c).toNat = 5 := by omega
      rcases this with h | h | h | h | h
      · exact h1 h
      · exact h2 h
      · exact h3 h
      · exact h4 h
      · exact h5 h
    exact .inr (.inr (.inr (.inr (.inr ⟨out, rfl⟩))))

end Sys2Proof
end

