-- ==== Sys2Proof/Laws/Engines.lean ====
section
/-! SUPPORT. The algebra of the stages: complement and shift as arithmetic modulo 2^32, and bits of an xor-shift. -/

namespace Sys2Proof.Machine

theorem not_eq_neg_sub_one (x : Word) : ~~~x = -x - 1 := by
  rw [BitVec.neg_eq_not_add, add_sub_assoc, show (1#32 : Word) - 1 = 0 from rfl, add_zero]

theorem shiftLeft_eq_mul (x : Word) (s : Nat) : x <<< s = x * BitVec.ofNat 32 (2 ^ s) := by
  apply BitVec.eq_of_toNat_eq
  simp [BitVec.toNat_shiftLeft, BitVec.toNat_mul, Nat.shiftLeft_eq]

/-- The complement of an add-with-complement-shift stage is a plain multiple of its input (R123, R127). -/
theorem not_addComplementShift (s : Nat) (x : Word) :
    ~~~(addComplementShift s x) = x * (BitVec.ofNat 32 (2 ^ s) - 1) := by
  simp only [addComplementShift, not_eq_neg_sub_one, shiftLeft_eq_mul]
  ring

@[simp] theorem xorShift_getLsbD (s : Nat) (x : Word) (j : Nat) :
    (xorShift s x).getLsbD j = (x.getLsbD j ^^ x.getLsbD (s + j)) := by
  simp [xorShift]

end Sys2Proof.Machine
end

