-- ==== Sys2Proof/Laws/State.lean ====
section
/-! SUPPORT. What each update of the state does to each field: one lemma per field per update, true by rfl. -/

namespace Sys2Proof.Machine

@[simp] theorem respond_params (st : Status) (d : Word) (s : State) : (respond st d s).params = s.params := rfl
@[simp] theorem respond_vstate (st : Status) (d : Word) (s : State) : (respond st d s).vstate = s.vstate := rfl
@[simp] theorem respond_vcnt (st : Status) (d : Word) (s : State) : (respond st d s).vcnt = s.vcnt := rfl
@[simp] theorem respond_ptrace (st : Status) (d : Word) (s : State) : (respond st d s).ptrace = s.ptrace := rfl
@[simp] theorem respond_turns (st : Status) (d : Word) (s : State) : (respond st d s).turns = s.turns := rfl
@[simp] theorem respond_responses (st : Status) (d : Word) (s : State) : (respond st d s).responses = s.responses ++ [{ status := st, data := d }] := rfl

@[simp] theorem respondError_params (st : Status) (s : State) : (respondError st s).params = s.params := rfl
@[simp] theorem respondError_vstate (st : Status) (s : State) : (respondError st s).vstate = s.vstate := rfl
@[simp] theorem respondError_vcnt (st : Status) (s : State) : (respondError st s).vcnt = s.vcnt := rfl
@[simp] theorem respondError_ptrace (st : Status) (s : State) : (respondError st s).ptrace = s.ptrace := rfl
@[simp] theorem respondError_turns (st : Status) (s : State) : (respondError st s).turns = s.turns := rfl
@[simp] theorem respondError_responses (st : Status) (s : State) : (respondError st s).responses = s.responses ++ [{ status := st, data := 0 }] := rfl

@[simp] theorem emit_params (e : Progress) (s : State) : (emit e s).params = s.params := rfl
@[simp] theorem emit_vstate (e : Progress) (s : State) : (emit e s).vstate = s.vstate := rfl
@[simp] theorem emit_vcnt (e : Progress) (s : State) : (emit e s).vcnt = s.vcnt := rfl
@[simp] theorem emit_ptrace (e : Progress) (s : State) : (emit e s).ptrace = s.ptrace ++ [e] := rfl
@[simp] theorem emit_turns (e : Progress) (s : State) : (emit e s).turns = s.turns := rfl
@[simp] theorem emit_responses (e : Progress) (s : State) : (emit e s).responses = s.responses := rfl

@[simp] theorem setSweep_params (v : VState) (n : Count) (s : State) : (setSweep v n s).params = s.params := rfl
@[simp] theorem setSweep_vstate (v : VState) (n : Count) (s : State) : (setSweep v n s).vstate = v := rfl
@[simp] theorem setSweep_vcnt (v : VState) (n : Count) (s : State) : (setSweep v n s).vcnt = n := rfl
@[simp] theorem setSweep_ptrace (v : VState) (n : Count) (s : State) : (setSweep v n s).ptrace = s.ptrace := rfl
@[simp] theorem setSweep_turns (v : VState) (n : Count) (s : State) : (setSweep v n s).turns = s.turns := rfl
@[simp] theorem setSweep_responses (v : VState) (n : Count) (s : State) : (setSweep v n s).responses = s.responses := rfl

@[simp] theorem applyReset_params (s : State) : (applyReset s).params = s.params := rfl
@[simp] theorem applyReset_vstate (s : State) : (applyReset s).vstate = .idle := rfl
@[simp] theorem applyReset_vcnt (s : State) : (applyReset s).vcnt = 0 := rfl
@[simp] theorem applyReset_ptrace (s : State) : (applyReset s).ptrace = s.ptrace := rfl
@[simp] theorem applyReset_turns (s : State) : (applyReset s).turns = s.turns := rfl
@[simp] theorem applyReset_responses (s : State) : (applyReset s).responses = s.responses := rfl

@[simp] theorem withCommand_params (c : Cmd) (s : State) : (withCommand c s).params = s.params := rfl
@[simp] theorem withCommand_vstate (c : Cmd) (s : State) : (withCommand c s).vstate = s.vstate := rfl
@[simp] theorem withCommand_vcnt (c : Cmd) (s : State) : (withCommand c s).vcnt = s.vcnt := rfl
@[simp] theorem withCommand_ptrace (c : Cmd) (s : State) : (withCommand c s).ptrace = s.ptrace := rfl
@[simp] theorem withCommand_turns (c : Cmd) (s : State) : (withCommand c s).turns = .host c :: s.turns := rfl
@[simp] theorem withCommand_responses (c : Cmd) (s : State) : (withCommand c s).responses = s.responses := rfl

end Sys2Proof.Machine
end

