-- ==== Sys2Proof/Laws/Ops.lean ====
section
/-! SUPPORT. One spec lemma per shared operation: everything it can answer. -/

namespace Sys2Proof.Machine

@[simp] theorem argOperand_eq (a : Word) : argOperand a = a := rfl

theorem trunc32_toNat (c : Count) : (trunc32 c).toNat = c.toNat % 4294967296 := by
  simp [trunc32, BitVec.extractLsb'_toNat]

theorem whenVerifier_present {k : State → State} {s : State} (h : s.params.hasVerifier = true) :
    whenVerifier k s = k s := by simp [whenVerifier, h]

theorem whenVerifier_absent {k : State → State} {s : State} (h : s.params.hasVerifier = false) :
    whenVerifier k s = respondError .unsupported s := by simp [whenVerifier, h]

theorem verifierEnabled_iff (s : State) :
    verifierEnabled s = true ↔ s.params.hasVerifier = true ∧ s.vstate = .running := by
  simp [verifierEnabled]

theorem verDone_iff (s : State) :
    verDone s = true ↔ s.params.hasVerifier = true ∧ (s.vstate = .pass ∨ s.vstate = .fail) := by
  simp [verDone]

theorem verPass_iff (s : State) : verPass s = true ↔ s.params.hasVerifier = true ∧ s.vstate = .pass := by
  simp [verPass]

/-- VSTART either starts the sweep (from IDLE or PASS) or only responds with an error (R141). -/
theorem startSweep_cases (s : State) :
    ((s.vstate = .idle ∨ s.vstate = .pass) ∧ startSweep s = respond .ok 0 (setSweep .running 0 s)) ∨
    (s.vstate = .running ∧ startSweep s = respondError .busy s) ∨
    (s.vstate = .fail ∧ startSweep s = respondError .failed s) := by
  unfold startSweep
  cases h : s.vstate <;> simp

/-- All a defined command can do: respond and write nothing else, or, for VSTART with a verifier from IDLE or PASS,
start the sweep and respond OK. -/
theorem exec_cases (i : Instr) (s : State) :
    (∃ st d, (st ≠ .ok → d = 0) ∧ exec i s = .next (respond st d s)) ∨
    (∃ a, i = .vstart a ∧ s.params.hasVerifier = true ∧ (s.vstate = .idle ∨ s.vstate = .pass) ∧
      exec i s = .next (respond .ok 0 (setSweep .running 0 s))) := by
  have absent : ∀ {k : State → State}, s.params.hasVerifier = false →
      whenVerifier k s = respond .unsupported 0 s := fun h => whenVerifier_absent h
  cases i with
  | hash a => exact .inl ⟨.ok, _, by simp, rfl⟩
  | unhash a => exact .inl ⟨.ok, _, by simp, rfl⟩
  | vstat a =>
    cases h : s.params.hasVerifier with
    | true => exact .inl ⟨.ok, _, by simp, congrArg _ (whenVerifier_present h)⟩
    | false => exact .inl ⟨.unsupported, 0, by simp, congrArg _ (absent h)⟩
  | vcount a =>
    cases h : s.params.hasVerifier with
    | true => exact .inl ⟨.ok, _, by simp, congrArg _ (whenVerifier_present h)⟩
    | false => exact .inl ⟨.unsupported, 0, by simp, congrArg _ (absent h)⟩
  | vstart a =>
    cases h : s.params.hasVerifier with
    | false => exact .inl ⟨.unsupported, 0, by simp, congrArg _ (absent h)⟩
    | true =>
      have e : exec (.vstart a) s = .next (startSweep s) := congrArg _ (whenVerifier_present h)
      rcases startSweep_cases s with ⟨hv, hs⟩ | ⟨_, hs⟩ | ⟨_, hs⟩
      · exact .inr ⟨a, rfl, rfl, hv, by rw [e, hs]⟩
      · exact .inl ⟨.busy, 0, by simp, by rw [e, hs]; rfl⟩
      · exact .inl ⟨.failed, 0, by simp, by rw [e, hs]; rfl⟩

end Sys2Proof.Machine
end

