-- ==== Sys2Proof/Laws/PerInstr.lean ====
section
/-! SUPPORT. A statement about each command as syntax: its word lies in its row of spec/opcode_table.json, has a defined
opcode, and carries its argument. One lemma per constructor. -/

namespace Sys2Proof.Laws.TableRow

/-- The word of `i` matches `i`'s row of the opcode table and holds `i`'s argument. -/
def Statement (i : Instr) : Prop :=
  i.wellFormed = true ∧ opDefined (cmdOp (encode i)) = true ∧ encode i &&& tableMask = i.tableMatch ∧
    cmdArg (encode i) = i.arg

theorem masked (op : BitVec 4) (a : Word) : packCmd op a &&& tableMask = packCmd op 0 := by
  have mask : tableMask = packCmd 0xF 0 := by decide
  apply BitVec.eq_of_getLsbD_eq
  intro i hi
  rw [mask, BitVec.getLsbD_and]
  simp only [packCmd_getLsbD]
  split
  next h => simp
  next h =>
    have ones : ∀ j, j < 4 → BitVec.getLsbD (15 : BitVec 4) j = true := by decide
    rw [ones (i - 32) (by omega), Bool.and_true]

theorem hash (a : Word) : Statement (.hash a) :=
  ⟨rfl, by simp [encode, Instr.opcode, opDefined], (masked _ _).trans (show packCmd 1 0 = 0x100000000 from by decide), by simp [encode]⟩

theorem unhash (a : Word) : Statement (.unhash a) :=
  ⟨rfl, by simp [encode, Instr.opcode, opDefined], (masked _ _).trans (show packCmd 2 0 = 0x200000000 from by decide), by simp [encode]⟩

theorem vstart (a : Word) : Statement (.vstart a) :=
  ⟨rfl, by simp [encode, Instr.opcode, opDefined], (masked _ _).trans (show packCmd 3 0 = 0x300000000 from by decide), by simp [encode]⟩

theorem vstat (a : Word) : Statement (.vstat a) :=
  ⟨rfl, by simp [encode, Instr.opcode, opDefined], (masked _ _).trans (show packCmd 4 0 = 0x400000000 from by decide), by simp [encode]⟩

theorem vcount (a : Word) : Statement (.vcount a) :=
  ⟨rfl, by simp [encode, Instr.opcode, opDefined], (masked _ _).trans (show packCmd 5 0 = 0x500000000 from by decide), by simp [encode]⟩

end Sys2Proof.Laws.TableRow
end

