-- ==== Sys2Proof/Laws/Verifier.lean ====
section
/-! SUPPORT. What the verifier's step does, by its two parts. -/

namespace Sys2Proof.Machine

@[simp] theorem emitProgress_params (s : State) : (emitProgress s).params = s.params := by
  unfold emitProgress; split <;> rfl

@[simp] theorem emitProgress_vstate (s : State) : (emitProgress s).vstate = s.vstate := by
  unfold emitProgress; split <;> rfl

@[simp] theorem emitProgress_vcnt (s : State) : (emitProgress s).vcnt = s.vcnt := by
  unfold emitProgress; split <;> rfl

@[simp] theorem emitProgress_turns (s : State) : (emitProgress s).turns = s.turns := by
  unfold emitProgress; split <;> rfl

@[simp] theorem emitProgress_responses (s : State) : (emitProgress s).responses = s.responses := by
  unfold emitProgress; split <;> rfl

theorem emitProgress_ptrace (s : State) :
    (emitProgress s).ptrace =
      s.ptrace ++ (if s.vcnt.toNat % Config.progInterval = 0 then [progressAt s.vcnt] else []) := by
  unfold emitProgress; split <;> simp_all

/-- The check of an index: agreement advances the counter and may end in PASS, disagreement is FAIL (R145). -/
theorem checkIndex_cases (rt : Word → Word) (s : State) :
    (rt (trunc32 s.vcnt) = trunc32 s.vcnt ∧
      checkIndex rt s = setSweep (if s.vcnt + 1 = 4294967296 then .pass else s.vstate) (s.vcnt + 1) s) ∨
    (rt (trunc32 s.vcnt) ≠ trunc32 s.vcnt ∧ checkIndex rt s = setSweep .fail s.vcnt s) := by
  unfold checkIndex
  split
  next h => exact .inl ⟨h, rfl⟩
  next h => exact .inr ⟨h, rfl⟩

@[simp] theorem verifierStepWith_params (rt : Word → Word) (s : State) :
    (verifierStepWith rt s).params = s.params := by
  rcases checkIndex_cases rt (emitProgress s) with ⟨_, h⟩ | ⟨_, h⟩ <;> simp [verifierStepWith, h]

@[simp] theorem verifierStepWith_turns (rt : Word → Word) (s : State) :
    (verifierStepWith rt s).turns = s.turns := by
  rcases checkIndex_cases rt (emitProgress s) with ⟨_, h⟩ | ⟨_, h⟩ <;> simp [verifierStepWith, h]

@[simp] theorem verifierStepWith_responses (rt : Word → Word) (s : State) :
    (verifierStepWith rt s).responses = s.responses := by
  rcases checkIndex_cases rt (emitProgress s) with ⟨_, h⟩ | ⟨_, h⟩ <;> simp [verifierStepWith, h]

theorem verifierStepWith_ptrace (rt : Word → Word) (s : State) :
    (verifierStepWith rt s).ptrace =
      s.ptrace ++ (if s.vcnt.toNat % Config.progInterval = 0 then [progressAt s.vcnt] else []) := by
  rw [← emitProgress_ptrace]
  rcases checkIndex_cases rt (emitProgress s) with ⟨_, h⟩ | ⟨_, h⟩ <;> simp [verifierStepWith, h]

/-- The verifier neither reads nor writes the responses. -/
theorem verifierStep_setResponses (s : State) (l : List Response) :
    verifierStep { s with responses := l } = { verifierStep s with responses := l } := by
  have check (v : State) :
      checkIndex roundTrip { v with responses := l } = { checkIndex roundTrip v with responses := l } := by
    simp only [checkIndex]
    split <;> rfl
  have emit : emitProgress { s with responses := l } = { emitProgress s with responses := l } := by
    simp only [emitProgress]
    split <;> rfl
  simp only [verifierStep, verifierStepWith, emit, check]

/-- Any number of verifier steps neither reads nor writes the responses. -/
theorem verifierSteps_setResponses (n : Nat) (s : State) (l : List Response) :
    verifierSteps n { s with responses := l } = { verifierSteps n s with responses := l } := by
  induction n generalizing s with
  | zero => rfl
  | succ n ih =>
    have same : verifierEnabled { s with responses := l } = verifierEnabled s := rfl
    simp only [verifierSteps, same]
    split
    · rw [verifierStep_setResponses, ih]
    · rfl

end Sys2Proof.Machine
end

