-- ==== Sys2Proof/Laws/Step.lean ====
section
/-! SUPPORT. Everything one step can do, by whose turn it is. -/

namespace Sys2Proof.Machine

/-- A command word only responds, or, as VSTART with a verifier from IDLE or PASS, starts the sweep. -/
theorem acceptCommand_cases (c : Cmd) (s : State) :
    (∃ st d, (st ≠ .ok → d = 0) ∧ acceptCommand c s = .next (respond st d s)) ∨
    (cmdOp c = 3 ∧ s.params.hasVerifier = true ∧ (s.vstate = .idle ∨ s.vstate = .pass) ∧
      acceptCommand c s = .next (respond .ok 0 (setSweep .running 0 s))) := by
  unfold acceptCommand
  rcases decode_cases c with ⟨ho, h⟩ | ⟨ho, h⟩ | ⟨ho, h⟩ | ⟨ho, h⟩ | ⟨ho, h⟩ | ⟨ho, h⟩ <;> rw [h]
  case inr.inr.inr.inr.inr => exact .inl ⟨.illegalOp, 0, fun _ => rfl, rfl⟩
  all_goals
    rcases exec_cases _ s with h' | ⟨a, hi, hv, hs, he⟩
    · exact .inl h'
    · cases hi <;> exact .inr ⟨ho, hv, hs, he⟩

/-- A next state comes from a command, from an enabled verifier or from the platform's reset. -/
theorem step_next_cases {s t : State} (h : step s = .next t) :
    (∃ c rest, s.turns = .host c :: rest ∧ acceptCommand c { s with turns := rest } = .next t) ∨
    ((s.turns = [] ∨ ∃ rest, s.turns = .verifier :: rest) ∧ verifierEnabled s = true ∧
      t = verifierStep { s with turns := s.turns.tail }) ∨
    (∃ rest, s.turns = .platform :: rest ∧ t = applyReset { s with turns := rest }) := by
  unfold step nextStep at h
  split at h
  next ht =>
    unfold verifierTurn at h
    split at h
    next he =>
      refine .inr (.inl ⟨.inl ht, he, ?_⟩)
      cases h
      cases s
      simp_all
    next => cases h
  next u rest ht =>
    cases u with
    | host c => exact .inl ⟨c, rest, ht, h⟩
    | verifier =>
      simp only [takeTurn, verifierTurn] at h
      split at h
      next he =>
        cases h
        exact .inr (.inl ⟨.inr ⟨rest, ht⟩, he, by rw [ht]; rfl⟩)
      next => cases h
    | platform =>
      cases h
      exact .inr (.inr ⟨rest, ht, rfl⟩)

/-- The verifier's step, on its turn or with no turn waiting, when it is enabled. -/
theorem step_verifier {s : State} (ht : s.turns = [] ∨ ∃ rest, s.turns = .verifier :: rest)
    (he : verifierEnabled s = true) : step s = .next (verifierStep { s with turns := s.turns.tail }) := by
  rcases ht with ht | ⟨rest, ht⟩
  · have same : ({ s with turns := s.turns.tail } : State) = s := by
      cases s
      simp at ht
      subst ht
      rfl
    rw [same]
    simp [step, nextStep, ht, verifierTurn, he]
  · have he' : verifierEnabled { s with turns := rest } = true := he
    simp [step, nextStep, ht, takeTurn, verifierTurn, he']

/-- A run of the core goes on from the next state. -/
theorem run_succ_next {k : Nat} {s t : State} (h : step s = .next t) :
    Sys2Proof.core.run (k + 1) s = Sys2Proof.core.run k t := by
  have e : Sys2Proof.core.step s = .next t := h
  simp only [Host.Core.run, e]

/-- A run of the core ends at a fault. -/
theorem run_succ_fault {k : Nat} {s : State} {f : Fault} (h : step s = .fault f) :
    Sys2Proof.core.run (k + 1) s = .fault f := by
  have e : Sys2Proof.core.step s = .fault f := h
  simp only [Host.Core.run, e]

end Sys2Proof.Machine
end

