-- ==== Sys2Proof/Machine/Listing.lean ====
section
/-! DEFINITION. The listing syntax of 30_encoding R69, in which 95_test_vectors writes its programs. Notation only. -/

namespace Sys2Proof.Machine

/-- An upper-case hexadecimal digit. -/
def hexDigit (n : Nat) : Char := ("0123456789ABCDEF".toList).getD n '?'

/-- The low `k` hexadecimal digits of a number, the highest first. -/
def hexDigits : Nat → Nat → List Char
  | 0, _ => []
  | k + 1, n => hexDigits k (n / 16) ++ [hexDigit (n % 16)]

/-- Drop leading zeros, but keep one digit. -/
def dropZeros : List Char → List Char
  | [] => []
  | [c] => [c]
  | c :: d :: cs => if c = '0' then dropZeros (d :: cs) else c :: d :: cs

/-- A word as `0x` and eight digits (R69). -/
def hexWord (w : Word) : String := String.ofList ('0' :: 'x' :: hexDigits 8 w.toNat)

/-- A number as `0x` and its digits without leading zeros (DEDUCED from the listings of 95_test_vectors 3.5; log 13). -/
def hexShort (w : Word) : String := String.ofList ('0' :: 'x' :: dropZeros (hexDigits 8 w.toNat))

/-- The listing of a command: HASH and UNHASH with the argument, the verifier commands bare (R69). -/
def listing : Instr → String
  | .hash a => "HASH " ++ hexWord a
  | .unhash a => "UNHASH " ++ hexWord a
  | .vstart _ => "VSTART"
  | .vstat _ => "VSTAT"
  | .vcount _ => "VCOUNT"

/-- The listing of a command word: a reserved opcode is `.cmd 0x<op>, 0x<arg>` (R69). -/
def listingCmd (c : Cmd) : String :=
  match decode c with
  | .instr i => listing i
  | .reserved op => ".cmd " ++ hexShort (op.setWidth 32) ++ ", " ++ hexShort (cmdArg c)

/-- The status names of R200. -/
def Status.name : Status → String
  | .ok => "OK"
  | .illegalOp => "ILLEGAL_OP"
  | .unsupported => "UNSUPPORTED"
  | .busy => "BUSY"
  | .failed => "FAILED"

/-- The listing of a response: `-> STATUS data` (R69). -/
def listingResponse (r : Response) : String := "-> " ++ r.status.name ++ " " ++ hexWord r.data

end Sys2Proof.Machine
end

