-- ==== Sys2Proof/Tests/Slice0.lean ====
section
/-! SUPPORT. The author's tests. Expected values are those of spec/95_test_vectors.md (the section is named at each) or are
computed by hand from a rule; and, for each statement with hypotheses, a witness that meets them. -/

namespace Sys2Proof.Tests
open Sys2Proof.Machine

/-- A state after reset, with or without a verifier, at the given point of a sweep. -/
def at' (has : Bool) (v : VState) (n : Count) : State :=
  { State.afterReset { Config.reference with hasVerifier := has } with vstate := v, vcnt := n }

/-- The last response of an outcome, with VSTATE and VCNT after it. -/
def answer (o : Host.Outcome State Fault Refusal) : Option (Status × Word × VState × Count) :=
  match nextState o with
  | none => none
  | some t => t.responses.getLast?.map (fun r => (r.status, r.data, t.vstate, t.vcnt))

/-- The fault an outcome stops with. -/
def stop (o : Host.Outcome State Fault Refusal) : Option Fault :=
  match o with
  | .next _ => none
  | .fault f => some f
  | .refused _ => none

/-! ### Well-formedness: a refused term for each check -/

theorem test_wellFormed_opcodes :
    opDefined 0x0 = false ∧ opDefined 0x1 = true ∧ opDefined 0x5 = true ∧ opDefined 0x6 = false ∧ opDefined 0xF = false := by
  decide

theorem test_wellFormed_status_codes : statusCodeDefined 4 = true ∧ statusCodeDefined 5 = false ∧ statusCodeDefined 7 = false := by
  decide

theorem test_wellFormed_words : isCommandWord 0xFFFFFFFFF = true ∧ isCommandWord 0x1000000000 = false := by decide

theorem test_wellFormed_listable :
    Instr.listable (.hash 5) = true ∧ Instr.listable (.vstart 0) = true ∧ Instr.listable (.vstart 5) = false ∧
    Instr.listable (.vstat 1) = false ∧ Instr.listable (.vcount 1) = false ∧ Instr.wellFormed (.vstart 5) = true := by
  decide

/-! ### Decoding: words written out bit by bit, op then arg (R60, R63; words of 95 P1 and 3.5) -/

theorem test_decode_hash_word : decode 0b0001_01001001100101100000001011010011 = .instr (.hash 1234567891) := by decide

theorem test_decode_unhash_word : decode 0b0010_10110111100000100100010101100001 = .instr (.unhash 0xB7824561) := by decide

theorem test_decode_verifier_words :
    decode 0b0011_11011110101011011011111011101111 = .instr (.vstart 0xDEADBEEF) ∧
    decode 0b0100_00000000000000000000000000000000 = .instr (.vstat 0) ∧
    decode 0b0101_00000000000000000000000000000001 = .instr (.vcount 1) := by decide

theorem test_decode_reserved_words :
    decode 0b0000_00000000000000000000000000000000 = .reserved 0 ∧
    decode 0b0110_00010010001101000101011001111000 = .reserved 6 ∧
    decode 0b1111_11111111111111111111111111111111 = .reserved 15 := by decide

theorem test_decode_table_words :
    decodeTableWord 36 0x1499602D3 = some (.hash 0x499602D3) ∧ decodeTableWord 40 0x500000000 = some (.vcount 0) ∧
    decodeTableWord 40 0x600000000 = none ∧ decodeTableWord 40 0x1100000000 = none := by decide

/-! ### The engines -/

/-- 95 section 3.1, the rows of 499602D3 and FFFFFFFF, stage by stage. -/
theorem test_forward_stages :
    fwdStage1 0x499602D3 = 0x482C82D2 ∧ fwdStage2 0x482C82D2 = 0x483E89F2 ∧ fwdStage3 0x483E89F2 = 0x8A32D982 ∧
    fwdStage4 0x8A32D982 = 0x881A12E4 ∧ fwdStage5 0x881A12E4 = 0xB782F2E3 ∧ fwdStage6 0xB782F2E3 = 0xB7824561 ∧
    fwdStage1 0xFFFFFFFF = 0x00007FFE ∧ fwdStage3 0x00007FE1 = 0x00047EE9 ∧ fwdStage5 0x00046F12 = 0xDC8BDF11 := by
  decide

/-- 95 section 3.1: all ten rows, forward. -/
theorem test_hash_rows :
    hash32 0x00000000 = 0x4636B9C9 ∧ hash32 0x00000001 = 0x62BAF5A0 ∧ hash32 0x00000002 = 0xFF4D1170 ∧
    hash32 0xFFFFFFFF = 0xDC8B039A ∧ hash32 0x80000000 = 0xA31BDCE4 ∧ hash32 0x499602D3 = 0xB7824561 ∧
    hash32 0x7FFFFFFF = 0x7BA824B9 ∧ hash32 0xDEADBEEF = 0xCD42A50D ∧ hash32 0x00008000 = 0x2D39FA23 ∧
    hash32 0x12345678 = 0x09237EFD := by decide

/-- 95 section 3.2: each inverse step recovers the row of 499602D3, and unhash32 of arbitrary words. -/
theorem test_inverse_steps :
    invStep1 0xB7824561 = 0xB782F2E3 ∧ invStep2 0xB782F2E3 = 0x881A12E4 ∧ invStep3 0x881A12E4 = 0x8A32D982 ∧
    invStep4 0x8A32D982 = 0x483E89F2 ∧ invStep5 0x483E89F2 = 0x482C82D2 ∧ invStep6 0x482C82D2 = 0x499602D3 ∧
    unhash32 0x00000000 = 0xCBB8423A ∧ unhash32 0x00000001 = 0xEF02C13C ∧ unhash32 0xFFFFFFFF = 0x29AB3791 ∧
    unhash32 0x80000000 = 0xAEC906E7 := by decide

/-- 95 section 3.3: the general cascade. -/
theorem test_cascade_rows :
    cascadeShifts 16 = [0, 16] ∧ cascadeShifts 6 = [0, 6, 12, 18, 24, 30] ∧ cascadeShifts 10 = [0, 10, 20, 30] ∧
    cascade 16 0xFFFF0000 = 0xFFFFFFFF ∧ cascade 6 0x127C8721 = 0x12345678 ∧ cascade 10 0x80200000 = 0x80000000 ∧
    xorShift 6 0x12345678 = 0x127C8721 ∧ xorShift 10 0x12345678 = 0x1230DB6D ∧ cascade 31 1 = 1 := by decide

/-- 95 section 3.4 and its wrong-constant control (90_conflicts C1). -/
theorem test_multipliers :
    invMul9 * 9 = 1 ∧ invMul15 * 32767 = 1 ∧ invMul11 * 2047 = 1 ∧ invStep4 5 = 0x1C71C71D ∧
    (1073774593 : Word) * ~~~0xFFFF8000 = 0xFFFFFFFF := by decide

/-! ### The commands, one step each -/

/-- R110 worked example; HASH is served during a sweep and without a verifier. -/
theorem test_exec_hash :
    answer (exec (.hash 0x499602D3) (at' true .running 7)) = some (.ok, 0xB7824561, .running, 7) ∧
    answer (exec (.hash 0x00000001) (at' false .idle 0)) = some (.ok, 0x62BAF5A0, .idle, 0) := by decide

/-- R130 worked example and corner case. -/
theorem test_exec_unhash :
    answer (exec (.unhash 0xB7824561) (at' true .fail 5)) = some (.ok, 0x499602D3, .fail, 5) ∧
    answer (exec (.unhash 0x4636B9C9) (at' true .idle 0)) = some (.ok, 0, .idle, 0) := by decide

/-- 95 section 3.5: VSTART in each state of the verifier, with an ignored argument. -/
theorem test_exec_vstart :
    answer (exec (.vstart 0) (at' true .idle 0)) = some (.ok, 0, .running, 0) ∧
    answer (exec (.vstart 0xDEADBEEF) (at' true .running 0)) = some (.busy, 0, .running, 0) ∧
    answer (exec (.vstart 0) (at' true .fail 5)) = some (.failed, 0, .fail, 5) ∧
    answer (exec (.vstart 0) (at' true .pass 0x100000000)) = some (.ok, 0, .running, 0) ∧
    answer (exec (.vstart 0) (at' false .idle 0)) = some (.unsupported, 0, .idle, 0) := by
  refine ⟨?_, ?_, ?_, ?_, ?_⟩ <;> decide

/-- 95 section 3.5, the table of status words, and UNSUPPORTED. -/
theorem test_exec_vstat :
    answer (exec (.vstat 9) (at' true .idle 0)) = some (.ok, 0x00000000, .idle, 0) ∧
    answer (exec (.vstat 0) (at' true .running 0)) = some (.ok, 0x00000001, .running, 0) ∧
    answer (exec (.vstat 0) (at' true .running 100000000)) = some (.ok, 0x00000011, .running, 100000000) ∧
    answer (exec (.vstat 0) (at' true .running 0x80000000)) = some (.ok, 0x00000191, .running, 0x80000000) ∧
    answer (exec (.vstat 0) (at' true .running 0xFFFFFFFF)) = some (.ok, 0x00000319, .running, 0xFFFFFFFF) ∧
    answer (exec (.vstat 0) (at' true .pass 0x100000000)) = some (.ok, 0x00000326, .pass, 0x100000000) ∧
    answer (exec (.vstat 0) (at' true .fail 5)) = some (.ok, 0x00000003, .fail, 5) ∧
    answer (exec (.vstat 0) (at' false .idle 0)) = some (.unsupported, 0, .idle, 0) := by
  refine ⟨?_, ?_, ?_, ?_, ?_, ?_, ?_, ?_⟩ <;> decide

/-- 95 section 3.5 and R161: VCOUNT in PASS, in FAIL and without a verifier. -/
theorem test_exec_vcount :
    answer (exec (.vcount 1) (at' true .pass 0x100000000)) = some (.ok, 0, .pass, 0x100000000) ∧
    answer (exec (.vcount 0) (at' true .fail 5)) = some (.ok, 5, .fail, 5) ∧
    answer (exec (.vcount 0) (at' true .running 0xFFFFFFFF)) = some (.ok, 0xFFFFFFFF, .running, 0xFFFFFFFF) ∧
    answer (exec (.vcount 0) (at' false .idle 0)) = some (.unsupported, 0, .idle, 0) := by decide

/-! ### Steps -/

/-- 95 section 3.6: VCNT before; event appended, VCNT and VSTATE after. -/
theorem test_verifier_steps :
    (let t := verifierStep (at' true .running 0); (t.ptrace, t.vcnt, t.vstate)) = ([⟨0, 0⟩], 1, .running) ∧
    (let t := verifierStep (at' true .running 1); (t.ptrace, t.vcnt, t.vstate)) = ([], 2, .running) ∧
    (let t := verifierStep (at' true .running 100000000); (t.ptrace, t.vcnt, t.vstate)) =
      ([⟨0x05F5E100, 2⟩], 100000001, .running) ∧
    (let t := verifierStep (at' true .running 0x80000000); (t.ptrace, t.vcnt, t.vstate)) = ([], 0x80000001, .running) ∧
    (let t := verifierStep (at' true .running 4200000000); (t.ptrace, t.vcnt, t.vstate)) =
      ([⟨0xFA56EA00, 97⟩], 4200000001, .running) ∧
    (let t := verifierStep (at' true .running 0xFFFFFFFF); (t.ptrace, t.vcnt, t.vstate)) = ([], 0x100000000, .pass) := by
  decide

/-- R145, R146: a round trip that departs at index 100000000 fails there, after the event of that index. -/
theorem test_verifier_step_mismatch :
    (let t := verifierStepWith (fun _ => 5) (at' true .running 100000000); (t.ptrace, t.vcnt, t.vstate)) =
      ([⟨0x05F5E100, 2⟩], 100000000, .fail) := by decide

/-- 95 section 3.6: the percentages of the 43 events of a sweep. -/
theorem test_progress_percentages :
    (List.range 43).map (fun j => percent (100000000 * j)) =
      [0, 2, 4, 6, 9, 11, 13, 16, 18, 20, 23, 25, 27, 30, 32, 34, 37, 39, 41, 44, 46, 48, 51, 53, 55, 58, 60, 62, 65, 67,
       69, 72, 74, 76, 79, 81, 83, 86, 88, 90, 93, 95, 97] := by decide

/-- 95 section 3.5 and P1: a reserved command through `step`, from the state after reset. -/
theorem test_step_reserved :
    answer (step (withCommand 0x700000000 State.reset)) = some (.illegalOp, 0, .idle, 0) ∧
    answer (step (withCommand 0x612345678 State.reset)) = some (.illegalOp, 0, .idle, 0) := by decide

/-- A placed word is the next command the machine runs (95 P1, P2). -/
theorem test_step_placed_words :
    answer (step (State.reset.withFetchWord 40 0x1499602D3)) = some (.ok, 0xB7824561, .idle, 0) ∧
    answer (step (State.reset.withFetchWord 40 0x300000000)) = some (.ok, 0, .running, 0) := by decide

/-- R240, 95 P5: a reset in the middle of a sweep keeps the trace. -/
theorem test_step_reset :
    (nextState (step { at' true .running 150000000 with ptrace := [⟨0, 0⟩, ⟨0x05F5E100, 2⟩], turns := [.platform] })).map
      (fun t => (t.vstate, t.vcnt, t.ptrace)) = some (.idle, 0, [⟨0, 0⟩, ⟨0x05F5E100, 2⟩]) := by decide

/-- R144, R252: the model's two stops. -/
theorem test_step_stops :
    stop (step { at' true .idle 0 with turns := [.verifier] }) = some .verifierHasNoStep ∧
    stop (step (at' true .pass 0x100000000)) = some .runOver := by decide

/-- R25: the outputs in PASS, in FAIL and without a verifier. -/
theorem test_outputs :
    verDone (at' true .pass 0) = true ∧ verPass (at' true .pass 0) = true ∧ verDone (at' true .fail 0) = true ∧
    verPass (at' true .fail 0) = false ∧ verDone (at' true .running 0) = false ∧ verDone (at' false .pass 0) = false := by
  decide

/-- R71: what the ports present for a command and for a verifier step. -/
theorem test_ports :
    (nextState (exec (.vstart 0) (at' true .running 0))).map (fun t => (outPorts (at' true .running 0) t).resp) =
      some (some (3, 0)) ∧
    (outPorts (at' true .running 0) (verifierStep (at' true .running 0))).prog = some (0, 0) := by decide

/-- R70 on the source's known example. -/
theorem test_rtrip : (rtrip 1234567891 2 (at' true .running 3)).map (fun p => (p.1, p.2.vcnt)) = some (true, 5) := by decide

/-- R70: VWAIT one step before PASS takes a second poll. -/
theorem test_vwait :
    (vwait [1] (at' true .running 0xFFFFFFFF)).map (fun p => p.1) = some 0x326 ∧
    (vwait [] (at' true .running 0xFFFFFFFF)).isNone = true := by decide

/-- R69: listings of 95 P1 and 3.5. -/
theorem test_listings :
    listing (.hash 0x499602D3) = "HASH 0x499602D3" ∧ listing (.vstat 0) = "VSTAT" ∧
    listingCmd 0x2B7824561 = "UNHASH 0xB7824561" ∧ listingCmd 0x000000000 = ".cmd 0x0, 0x0" ∧
    listingCmd 0xFFFFFFFFF = ".cmd 0xF, 0xFFFFFFFF" ∧
    listingResponse ⟨.ok, 0xB7824561⟩ = "-> OK 0xB7824561" := by decide

/-! ### Witnesses: concrete states and operands that meet the hypotheses of the statements -/

theorem witness_EncodeOfDecodeIsTheWord : decode 0x1FFFFFFFF = .instr (.hash 0xFFFFFFFF) := by decide

theorem witness_ReservedOpcodesRespondIllegalOp :
    (1 ≤ (0x1 : BitVec 4).toNat ∧ (0x1 : BitVec 4).toNat ≤ 5) ∧ (1 ≤ (0x5 : BitVec 4).toNat ∧ (0x5 : BitVec 4).toNat ≤ 5) ∧
    (0x0 : BitVec 4).toNat = 0 ∧ 6 ≤ (0x6 : BitVec 4).toNat ∧ 6 ≤ (0xF : BitVec 4).toNat := by decide

theorem witness_TableWordIsTheNextCommand : decodeTableWord 40 0x5FFFFFFFF = some (.vcount 0xFFFFFFFF) := by decide

theorem witness_CascadeInvertsXorShift : 1 ≤ 1 ∧ 1 ≤ 31 ∧ 31 ≤ 31 := by decide

/-- The four clauses of VSTART, each at a state that meets it. -/
theorem witness_VstartStartsOrIsTurnedAway :
    ((at' true .idle 0).params.hasVerifier = true ∧ (at' true .idle 0).vstate = .idle) ∧
    (at' true .pass 0x100000000).vstate = .pass ∧ (at' true .running 0xFFFFFFFF).vstate = .running ∧
    (at' true .fail 5).vstate = .fail ∧ (at' false .idle 0).params.hasVerifier = false := by decide

/-- VSTAT and the status word: the verifier present and absent, the counter at 0, at 2^32 - 1 and at 2^32. -/
theorem witness_VstatRespondsStatusWord :
    (at' true .idle 0).params.hasVerifier = true ∧ (at' true .running 0xFFFFFFFF).vcnt.toNat ≤ 4294967296 ∧
    ((at' true .pass 0x100000000).vstate = .pass ∧ (at' true .pass 0x100000000).vcnt.toNat = 4294967296) ∧
    ((at' true .running 0).vstate = .running ∧ (at' true .running 0).vcnt = 0) ∧
    (at' false .idle 0).params.hasVerifier = false := by decide

theorem witness_StatusWordFields : (at' true .pass 0x100000000).vcnt.toNat ≤ 4294967296 := by decide

theorem witness_VcountRespondsLowBits :
    (at' true .pass 0x100000000).params.hasVerifier = true ∧ (at' true .pass 0x100000000).vcnt.toNat = 4294967296 ∧
    (at' true .fail 0xFFFFFFFF).vcnt.toNat < 4294967296 ∧ (at' false .idle 0).params.hasVerifier = false := by decide

theorem witness_AbsentVerifierRespondsUnsupported :
    (at' false .idle 0).params.hasVerifier = false ∧ (at' true .idle 0).params.hasVerifier = true ∧
    Instr.vstat 7 ∈ [Instr.vstart 7, Instr.vstat 7, Instr.vcount 7] ∧ Instr.hash 7 ∈ [Instr.hash 7, Instr.unhash 7] := by
  decide

/-- A non-OK response, each of the four. -/
theorem witness_EveryCommandGetsItsStatus :
    answer (acceptCommand 0x000000000 (at' true .idle 0)) = some (.illegalOp, 0, .idle, 0) ∧
    answer (acceptCommand 0x500000000 (at' false .idle 0)) = some (.unsupported, 0, .idle, 0) ∧
    answer (acceptCommand 0x300000000 (at' true .running 0)) = some (.busy, 0, .running, 0) ∧
    answer (acceptCommand 0x300000000 (at' true .fail 0)) = some (.failed, 0, .fail, 0) := by decide

/-- A step on the host's turn, with an OK and with a non-OK response, and a step that is not the host's. -/
theorem witness_ResponsesInCommandOrder :
    answer (step (withCommand 0x400000000 (at' true .running 3))) = some (.ok, 1, .running, 3) ∧
    answer (step (withCommand 0xF00000000 (at' true .running 3))) = some (.illegalOp, 0, .running, 3) ∧
    (nextState (step (at' true .running 3))).isSome = true := by decide

theorem witness_CommandFrame :
    (nextState (exec (.vcount 0) (at' true .running 3))).isSome = true ∧ ∀ a, Instr.vcount 0 ≠ .vstart a :=
  ⟨by decide, fun a h => by cases h⟩

theorem witness_StepRunsTheDecodedCommand :
    (withCommand 0x500000000 (at' true .running 3)).turns = .host 0x500000000 :: [] ∧
    decode 0x500000000 = .instr (.vcount 0) := by decide

theorem witness_StepAnswersAReservedOpcode :
    (withCommand 0xFFFFFFFFF (at' true .running 3)).turns = .host 0xFFFFFFFFF :: [] ∧
    decode 0xFFFFFFFFF = .reserved 0xF := by decide

/-- The verifier's step, on its turn and with no turn waiting, at the first and the last index; the matching branch is the
one these datapaths take. -/
theorem witness_VerifierStepTestsOneIndex :
    ({ at' true .running 0 with turns := [.verifier] } : State).turns = .verifier :: [] ∧
    (at' true .running 0xFFFFFFFF).turns = [] ∧ (at' true .running 0xFFFFFFFF).params.hasVerifier = true ∧
    (at' true .running 0xFFFFFFFF).vstate = .running ∧ (at' true .running 0xFFFFFFFF).vcnt.toNat ≤ 4294967295 ∧
    unhash32 (hash32 (BitVec.ofNat 32 0xFFFFFFFF)) = BitVec.ofNat 32 0xFFFFFFFF := by decide

theorem witness_MismatchEndsTheSweep :
    (fun _ : Word => (5 : Word)) (trunc32 (at' true .running 100000000).vcnt) ≠ trunc32 (at' true .running 100000000).vcnt ∧
    (at' true .running 100000000).params.hasVerifier = true := by decide

theorem witness_VerifierHasAStepExactlyWhenRunning :
    ({ at' true .running 0 with turns := [.verifier] } : State).turns = .verifier :: [] ∧
    (at' true .pass 0x100000000).turns = [] := by decide

/-- A reset turn; and steps other than a reset from FAIL and from RUNNING. -/
theorem witness_ResetStepWritesResetValues :
    ({ at' true .fail 5 with turns := [.platform] } : State).turns = .platform :: [] ∧
    answer (step (withCommand 0x300000000 (at' true .fail 5))) = some (.failed, 0, .fail, 5) ∧
    answer (step (withCommand 0x300000000 (at' true .running 5))) = some (.busy, 0, .running, 5) := by decide

/-- A state of a running sweep that meets the invariant, with a next state. -/
theorem witness_EveryStepKeepsTheInvariant :
    StateInv { at' true .running 100000001 with ptrace := [⟨0, 0⟩, ⟨0x05F5E100, 2⟩] } ∧
    (nextState (step { at' true .running 100000001 with ptrace := [⟨0, 0⟩, ⟨0x05F5E100, 2⟩] })).isSome = true := by
  decide

theorem witness_FailIsNeverEntered :
    Safe (at' true .running 0xFFFFFFFF) ∧ (nextState (step (at' true .running 0xFFFFFFFF))).isSome = true := by decide

/-- A step that appends an event, and a step of a block without a verifier. -/
theorem witness_ProgressTraceIsAppendOnly :
    (nextState (step (at' true .running 0))).map (fun t => t.ptrace) = some [⟨0, 0⟩] ∧
    (at' false .idle 0).params.hasVerifier = false ∧
    (nextState (step (withCommand 0x100000000 (at' false .idle 0)))).isSome = true := by decide

/-- The three writers, each changing VSTATE or VCNT. -/
theorem witness_OnlyThreeStepsWriteTheVerifier :
    answer (step (withCommand 0x300000000 (at' true .idle 0))) = some (.ok, 0, .running, 0) ∧
    (nextState (step (at' true .running 4))).map (fun t => t.vcnt) = some 5 ∧
    (nextState (step { at' true .fail 5 with turns := [.platform] })).map (fun t => t.vstate) = some .idle := by decide

/-- A step that starts a sweep, and one that leaves PASS as it is. -/
theorem witness_SweepStartsOnlyByVstart :
    answer (step (withCommand 0x300000000 (at' true .pass 0x100000000))) = some (.ok, 0, .running, 0) ∧
    answer (step (withCommand 0x400000000 (at' true .pass 0x100000000))) = some (.ok, 0x326, .pass, 0x100000000) := by decide

/-- A command and a verifier step in a running sweep. -/
theorem witness_NoCommandStopsASweep :
    answer (acceptCommand 0x300000000 (at' true .running 5)) = some (.busy, 0, .running, 5) ∧
    (nextState (step (at' true .running 0xFFFFFFFF))).map (fun t => t.vstate) = some .pass := by decide

theorem witness_SweepCountsUpward :
    (at' true .running 0xFFFFFFFF).vstate = .running ∧ (at' true .running 0xFFFFFFFF).vcnt.toNat ≤ 4294967295 ∧
    (nextState (step (at' true .running 0xFFFFFFFF))).isSome = true ∧
    ∀ rest, (at' true .running 0xFFFFFFFF).turns ≠ .platform :: rest :=
  ⟨by decide, by decide, by decide, fun rest h => by cases h⟩

theorem witness_StartedVerifierIsNeverIdleAgain :
    answer (exec (.vstart 0) (at' true .idle 0)) = some (.ok, 0, .running, 0) ∧
    (at' true .pass 0x100000000).vstate ≠ .idle ∧
    answer (step (withCommand 0x400000000 (at' true .pass 0x100000000))) = some (.ok, 0x326, .pass, 0x100000000) := by decide

/-- The whole sweep, and its last step. -/
theorem witness_SweepPassesAfterExactlyAllSteps :
    (at' true .running 0).turns = [] ∧ (at' true .running 0).params.hasVerifier = true ∧
    (at' true .running 0).vstate = .running ∧ (at' true .running 0).vcnt.toNat + 4294967296 = 4294967296 ∧
    (at' true .running 0xFFFFFFFF).vcnt.toNat + 1 = 4294967296 := by decide

theorem witness_SweepPassesUnderEveryInterleaving :
    ({ at' true .running 0xFFFFFFFE with turns := [.verifier, .host 0x400000000, .verifier] } : State).turns =
      [.verifier, .host 0x400000000] ++ [.verifier] ∧
    Turn.platform ∉ [Turn.verifier, Turn.host 0x400000000] ∧
    (at' true .running 0xFFFFFFFE).vcnt.toNat + [Turn.verifier, Turn.host 0x400000000].count .verifier + 1 = 4294967296 := by
  decide

/-- An infinite execution, weakly fair and without a reset, with a VSTART from IDLE at its start: then the host issues HASH
where the verifier has no step, and the verifier steps where it has one. -/
def fairStates : Nat → State
  | 0 => at' true .idle 0
  | n + 1 =>
    if n = 0 then respond .ok 0 (setSweep .running 0 (at' true .idle 0))
    else if verifierEnabled (fairStates n) then verifierStep (fairStates n)
    else respond .ok (hash32 0) (fairStates n)

/-- The turns of `fairStates`. -/
def fairTurns (n : Nat) : Turn :=
  if n = 0 then .host (encode (.vstart 0))
  else if verifierEnabled (fairStates n) then .verifier else .host (encode (.hash 0))

theorem witness_FairSweepReachesPass :
    IsExecution fairStates fairTurns ∧ WeaklyFair fairStates fairTurns ∧ (∀ m, fairTurns m ≠ .platform) ∧
    (fairStates 0).params.hasVerifier = true ∧ (fairStates 0).vstate = .idle ∧
    fairTurns 0 = .host (encode (.vstart 0)) := by
  refine ⟨?_, ?_, ?_, rfl, rfl, rfl⟩
  · intro n
    by_cases h0 : n = 0
    · subst h0
      rfl
    · by_cases he : verifierEnabled (fairStates n) = true
      · simp [fairTurns, fairStates, h0, he, takeTurn, verifierTurn]
      · have hd : decode (encode (.hash 0)) = .instr (.hash 0) := by decide
        rw [show fairTurns n = .host (encode (.hash 0)) by rw [fairTurns, if_neg h0, if_neg he]]
        rw [takeTurn, acceptCommand, hd, fairStates, if_neg h0, if_neg he]
        rfl
  · intro n h
    refine ⟨n + 1, by omega, ?_⟩
    have he := h (n + 1) (by omega)
    simp [fairTurns, he]
  · intro m h
    unfold fairTurns at h
    split at h
    · cases h
    · split at h <;> cases h

theorem witness_FullSweepEmitsFortyThreeEvents :
    (at' true .running 0).turns = [] ∧ (at' true .running 0).params.hasVerifier = true ∧
    (at' true .running 0).vstate = .running ∧ (at' true .running 0).vcnt = 0 := by decide

/-- The schedule clause: VSTAT first, then all the verifier's steps. -/
theorem witness_FullSweepEmitsFortyThreeEvents_schedule (n : Nat) (hn : n = 4294967295) :
    let before : List Turn := .host 0x400000000 :: List.replicate n .verifier
    let s : State := { at' true .running 0 with turns := before ++ [.verifier] }
    s.params.hasVerifier = true ∧ s.vstate = .running ∧ s.vcnt = 0 ∧ s.turns = before ++ [.verifier] ∧
    .platform ∉ before ∧ before.count .verifier + 1 = 4294967296 := by
  refine ⟨rfl, rfl, rfl, rfl, ?_, ?_⟩
  · simp [List.mem_replicate]
  · rw [List.count_cons_of_ne (by decide), List.count_replicate_self]
    omega

theorem witness_TransformsCommuteWithTheVerifier :
    (at' true .running 0).params.hasVerifier = true ∧ (at' true .running 0).vstate = .running ∧
    (Instr.hash 3 = .hash 3 ∨ Instr.hash 3 = .unhash 3) := by decide

/-- Other latencies, the verifier present; a step that goes on and one that stops. -/
theorem witness_OtherParametersAreNeverRead :
    ({ Config.reference with latHash := 7, progBackpressure := true } : Config.Params).hasVerifier =
      (at' true .running 0).params.hasVerifier ∧
    (nextState (step (at' true .running 0))).isSome = true ∧ (nextState (step (at' true .idle 0))).isNone = true := by
  decide

theorem witness_AbsentVerifierStateIsInvisible :
    (at' false .idle 0).params.hasVerifier = false ∧
    (nextState (step (withCommand 0x400000000 (at' false .idle 0)))).isSome = true ∧
    (nextState (step (at' false .running 3))).isNone = true := by decide

/-- ver_done rising by the last verifier step, and falling by a VSTART from PASS and by a reset. -/
theorem witness_DoneAndPassOutputs :
    (nextState (step (at' true .running 0xFFFFFFFF))).map verDone = some true ∧
    (nextState (step (withCommand 0x300000000 (at' true .pass 0x100000000)))).map verDone = some false ∧
    (nextState (step { at' true .fail 5 with turns := [.platform] })).map verDone = some false := by decide

theorem witness_VwaitEndsInPass :
    (at' true .running 0xFFFFFFFE).params.hasVerifier = true ∧ (at' true .running 0xFFFFFFFE).vstate = .running ∧
    (at' true .running 0xFFFFFFFE).vcnt.toNat ≤ 4294967295 ∧
    4294967296 ≤ (at' true .running 0xFFFFFFFE).vcnt.toNat + [1, 0, 1].sum := by decide

end Sys2Proof.Tests
end

section
/-! SUPPORT. Every effect one step can have, in one list, and what the effects are to the trace, the outputs and the
status word. -/

namespace Sys2Proof.Machine

/-- A command word with the opcode of VSTART is the word of a VSTART (R60). -/
theorem eq_encode_vstart_of_cmdOp {c : Cmd} (h : cmdOp c = 3) : c = encode (.vstart (cmdArg c)) := by
  rw [encode, Instr.opcode, Instr.arg, ← h, packCmd_fields]

/-- A next state is one of four: the state with one more response, a sweep started by VSTART, the verifier's step of an
enabled verifier, the platform's reset. -/
theorem step_next_effects {s t : State} (h : step s = .next t) :
    (∃ c rest st d, s.turns = .host c :: rest ∧ (st ≠ .ok → d = 0) ∧ t = respond st d { s with turns := rest }) ∨
    (∃ a rest, s.turns = .host (encode (.vstart a)) :: rest ∧ s.params.hasVerifier = true ∧
      (s.vstate = .idle ∨ s.vstate = .pass) ∧ t = respond .ok 0 (setSweep .running 0 { s with turns := rest })) ∨
    ((s.turns = [] ∨ ∃ rest, s.turns = .verifier :: rest) ∧ verifierEnabled s = true ∧
      t = verifierStep { s with turns := s.turns.tail }) ∨
    (∃ rest, s.turns = .platform :: rest ∧ t = applyReset { s with turns := rest }) := by
  rcases step_next_cases h with ⟨c, rest, ht, hc⟩ | hverifier | hreset
  · rcases acceptCommand_cases c { s with turns := rest } with ⟨st, d, hd, he⟩ | ⟨ho, hv, hs, he⟩
    · cases he.symm.trans hc
      exact .inl ⟨c, rest, st, d, ht, hd, rfl⟩
    · cases he.symm.trans hc
      exact .inr (.inl ⟨cmdArg c, rest, eq_encode_vstart_of_cmdOp ho ▸ ht, hv, hs, rfl⟩)
  · exact .inr (.inr (.inl hverifier))
  · exact .inr (.inr (.inr hreset))

theorem verifierStep_ptrace (s : State) :
    (verifierStep s).ptrace =
      s.ptrace ++ (if s.vcnt.toNat % Config.progInterval = 0 then [progressAt s.vcnt] else []) :=
  verifierStepWith_ptrace roundTrip s

theorem hasVerifier_of_verifierEnabled {s : State} (h : verifierEnabled s = true) : s.params.hasVerifier = true :=
  ((verifierEnabled_iff s).mp h).1

@[simp] theorem verDone_respond (st : Status) (d : Word) (s : State) : verDone (respond st d s) = verDone s := rfl

@[simp] theorem verDone_applyReset (s : State) : verDone (applyReset s) = false := by simp [verDone]

theorem verDone_eq_false_of_idle {s : State} (h : s.vstate = .idle) : verDone s = false := by simp [verDone, h]

theorem verDone_eq_false_of_running {s : State} (h : s.vstate = .running) : verDone s = false := by simp [verDone, h]

theorem verPass_eq_false_of_idle {s : State} (h : s.vstate = .idle) : verPass s = false := by simp [verPass, h]

/-- The status word before a sweep is 0 (R26, R160). -/
theorem statusWord_eq_zero {s : State} (hv : s.vstate = .idle) (hc : s.vcnt = 0) : statusWord s = 0 := by
  rw [statusWord, hv, hc]
  decide

end Sys2Proof.Machine
end

section
/-! The statements about the state items (10_state). -/

namespace Sys2Proof.Machine

/-- Settles O38, by the effect of the step: the verifier's step adds the event of its index or nothing, every other
effect leaves the trace alone. -/
theorem progressTraceIsAppendOnly : Obligations.ProgressTraceIsAppendOnly := by
  intro s t h
  rcases step_next_effects h with ⟨_, _, _, _, _, _, rfl⟩ | ⟨_, _, _, _, _, rfl⟩ | ⟨hturn, he, rfl⟩ | ⟨_, _, rfl⟩
  case inr.inr.inl =>
    have hv := hasVerifier_of_verifierEnabled he
    refine ⟨_, verifierStep_ptrace _, ?_, fun _ => ⟨hturn, he⟩, fun habsent => ?_⟩
    · split <;> simp
    · simp [hv] at habsent
  all_goals exact ⟨[], by simp, by simp, by simp, fun _ => rfl⟩

/-- ver_done rises only in the verifier's step of a running sweep (R205). -/
theorem verDone_rises_only_by_verifierStep {s t : State} (h : step s = .next t) (hs : verDone s = false)
    (ht : verDone t = true) :
    (s.turns = [] ∨ ∃ rest, s.turns = .verifier :: rest) ∧ verifierEnabled s = true := by
  rcases step_next_effects h with ⟨_, _, _, _, _, _, rfl⟩ | ⟨_, _, _, _, _, rfl⟩ | ⟨hturn, he, _⟩ | ⟨_, _, rfl⟩
  · rw [verDone_respond] at ht
    cases hs.symm.trans ht
  · rw [verDone_eq_false_of_running (by simp)] at ht
    cases ht
  · exact ⟨hturn, he⟩
  · simp at ht

/-- ver_done falls only in a reset or in a VSTART from PASS (R205). -/
theorem verDone_falls_only_by_reset_or_vstart {s t : State} (h : step s = .next t) (hs : verDone s = true)
    (ht : verDone t = false) :
    (∃ rest, s.turns = .platform :: rest) ∨
    (s.vstate = .pass ∧ ∃ a rest, s.turns = .host (encode (.vstart a)) :: rest) := by
  rcases step_next_effects h with
    ⟨_, _, _, _, _, _, rfl⟩ | ⟨a, rest, hturn, _, hidle | hpass, _⟩ | ⟨_, he, _⟩ | ⟨rest, hturn, _⟩
  · rw [verDone_respond] at ht
    cases hs.symm.trans ht
  · rw [verDone_eq_false_of_idle hidle] at hs
    cases hs
  · exact .inr ⟨hpass, a, rest, hturn⟩
  · rw [verDone_eq_false_of_running ((verifierEnabled_iff s).mp he).2] at hs
    cases hs
  · exact .inl ⟨rest, hturn⟩

/-- Settles O51: the values of the outputs in every state, and the steps in which ver_done changes. -/
theorem doneAndPassOutputs : Obligations.DoneAndPassOutputs :=
  ⟨fun s => ⟨verDone_iff s, verPass_iff s⟩,
    fun _ _ h => ⟨verDone_rises_only_by_verifierStep h, verDone_falls_only_by_reset_or_vstart h⟩⟩

/-- Settles O18: the words are the two transforms of the argument, chosen before the state. -/
theorem transformsReadAndWriteNoState : Obligations.TransformsReadAndWriteNoState :=
  fun arg => ⟨hash32 arg, unhash32 arg, fun _ => ⟨rfl, rfl⟩⟩

/-- Settles O34: IDLE with counter 0 fixes both outputs and the status word. -/
theorem stateAfterReset : Obligations.StateAfterReset := by
  intro p s
  have shown : ∀ t : State, t.vstate = .idle → t.vcnt = 0 →
      t.vstate = .idle ∧ t.vcnt = 0 ∧ verDone t = false ∧ verPass t = false ∧ statusWord t = 0 :=
    fun _ hv hc => ⟨hv, hc, verDone_eq_false_of_idle hv, verPass_eq_false_of_idle hv, statusWord_eq_zero hv hc⟩
  refine ⟨fun t ht => ?_, rfl, rfl⟩
  rcases List.mem_pair.mp ht with rfl | rfl
  · exact shown _ rfl rfl
  · exact shown _ rfl rfl

end Sys2Proof.Machine
end

section
/-! SUPPORT. What a command word answers: the decoder by class of opcode, the absent verifier, and the one response of a
command. -/

namespace Sys2Proof

/-- Opcodes 1 to 5 are defined with every argument, and the decoder keeps both fields (R65). -/
theorem decode_packCmd_defined {op : BitVec 4} (arg : Word) (hlow : 1 ≤ op.toNat) (hhigh : op.toNat ≤ 5) :
    ∃ i, decode (packCmd op arg) = .instr i ∧ i.opcode = op ∧ i.arg = arg := by
  have hcases := decode_cases (packCmd op arg)
  rw [cmdOp_packCmd, cmdArg_packCmd] at hcases
  rcases hcases with ⟨ho, hd⟩ | ⟨ho, hd⟩ | ⟨ho, hd⟩ | ⟨ho, hd⟩ | ⟨ho, hd⟩ | ⟨hreserved, _⟩
  case inr.inr.inr.inr.inr => omega
  all_goals exact ⟨_, hd, ho.symm, rfl⟩

/-- The decoder rejects opcodes 0 and 6 to 15, and names the opcode (R65). -/
theorem decode_reserved {c : Cmd} (hop : (cmdOp c).toNat = 0 ∨ 6 ≤ (cmdOp c).toNat) :
    decode c = .reserved (cmdOp c) := by
  rcases decode_cases c with ⟨ho, _⟩ | ⟨ho, _⟩ | ⟨ho, _⟩ | ⟨ho, _⟩ | ⟨ho, _⟩ | ⟨_, hd⟩
  case inr.inr.inr.inr.inr => exact hd
  all_goals
    rw [ho] at hop
    exact absurd hop (by decide)

end Sys2Proof

namespace Sys2Proof.Machine

theorem acceptCommand_instr {c : Cmd} {i : Instr} (h : decode c = .instr i) (s : State) :
    acceptCommand c s = exec i s := by
  rw [acceptCommand, h]

theorem acceptCommand_reserved {c : Cmd} {op : BitVec 4} (h : decode c = .reserved op) (s : State) :
    acceptCommand c s = .next (respondError .illegalOp s) := by
  rw [acceptCommand, h]

/-- Without a verifier the commands from opcode 3 on respond UNSUPPORTED (R67). -/
theorem exec_verifierCommand_absent {i : Instr} {s : State} (hi : 3 ≤ i.opcode.toNat)
    (h : s.params.hasVerifier = false) : exec i s = .next (respondError .unsupported s) := by
  cases i with
  | hash _ => exact absurd hi (by simp [Instr.opcode])
  | unhash _ => exact absurd hi (by simp [Instr.opcode])
  | vstart _ => exact congrArg _ (whenVerifier_absent h)
  | vstat _ => exact congrArg _ (whenVerifier_absent h)
  | vcount _ => exact congrArg _ (whenVerifier_absent h)

/-- `t` has one response more than `s`, the newest: with data `d` on OK, with data 0 on an error (R64). -/
def AnswersWith (d : Word) (s t : State) : Prop :=
  ∃ r : Response, t.responses = s.responses ++ [r] ∧
    (r.status ≠ .ok → r.data = 0) ∧ (r.status = .ok → r.data = d)

theorem answersWith_respond_ok (d : Word) (s : State) : AnswersWith d s (respond .ok d s) :=
  ⟨_, rfl, fun h => absurd rfl h, fun _ => rfl⟩

theorem answersWith_respondError {st : Status} (hst : st ≠ .ok) (d : Word) (s : State) :
    AnswersWith d s (respondError st s) :=
  ⟨_, rfl, fun _ => rfl, fun h => absurd h hst⟩

theorem answersWith_whenVerifier {d : Word} {k : State → State} {s : State} (hk : AnswersWith d s (k s)) :
    AnswersWith d s (whenVerifier k s) := by
  cases h : s.params.hasVerifier with
  | true => rwa [whenVerifier_present h]
  | false =>
    rw [whenVerifier_absent h]
    exact answersWith_respondError (by decide) d s

theorem answersWith_startSweep (s : State) : AnswersWith 0 s (startSweep s) := by
  rcases startSweep_cases s with ⟨_, h⟩ | ⟨_, h⟩ | ⟨_, h⟩ <;> rw [h]
  · exact answersWith_respond_ok 0 (setSweep .running 0 s)
  · exact answersWith_respondError (by decide) 0 s
  · exact answersWith_respondError (by decide) 0 s

/-- The result column of the opcode map (R63): the data of an OK response to the command `c` in the state `s`. -/
def resultData (c : Cmd) (s : State) : Word :=
  if cmdOp c = 1 then hash32 (cmdArg c)
  else if cmdOp c = 2 then unhash32 (cmdArg c)
  else if cmdOp c = 4 then statusWord s
  else if cmdOp c = 5 then trunc32 s.vcnt
  else 0

/-- Every command word gets one response, with the result of the opcode map when it is OK (R63, R64). -/
theorem acceptCommand_answersWith (c : Cmd) (s : State) :
    ∃ t, acceptCommand c s = .next t ∧ AnswersWith (resultData c s) s t := by
  rcases decode_cases c with ⟨ho, hd⟩ | ⟨ho, hd⟩ | ⟨ho, hd⟩ | ⟨ho, hd⟩ | ⟨ho, hd⟩ | ⟨_, hd⟩
  case inr.inr.inr.inr.inr =>
    exact ⟨_, acceptCommand_reserved hd s, answersWith_respondError (by decide) _ s⟩
  all_goals
    refine ⟨_, acceptCommand_instr hd s, ?_⟩
    simp only [resultData, ho, BitVec.reduceEq, if_true, if_false]
  · exact answersWith_respond_ok _ s
  · exact answersWith_respond_ok _ s
  · exact answersWith_whenVerifier (answersWith_startSweep s)
  · exact answersWith_whenVerifier (answersWith_respond_ok _ s)
  · exact answersWith_whenVerifier (answersWith_respond_ok _ s)

/-- On the host's turn a step accepts the command, with the turn taken off. -/
theorem step_host {c : Cmd} {rest : List Turn} {s : State} (h : s.turns = .host c :: rest) :
    step s = acceptCommand c { s with turns := rest } := by
  simp only [step, nextStep, h, takeTurn]

@[simp] theorem verifierStep_responses (s : State) : (verifierStep s).responses = s.responses :=
  verifierStepWith_responses roundTrip s

end Sys2Proof.Machine
end

section
/-! The statements about the commands' encoding and responses (30_encoding). -/

namespace Sys2Proof.Machine

/-- Settles O5: the decoder by class of opcode, and the answer to a reserved one. -/
theorem reservedOpcodesRespondIllegalOp : Obligations.ReservedOpcodesRespondIllegalOp := by
  intro op arg s
  refine ⟨fun ⟨hlow, hhigh⟩ => decode_packCmd_defined arg hlow hhigh, fun hop => ?_⟩
  have hd : decode (packCmd op arg) = .reserved op := by
    simpa using decode_reserved (c := packCmd op arg) (by simpa using hop)
  exact ⟨hd, acceptCommand_reserved hd s⟩

/-- Settles O23: the three verifier commands are turned away, the two transforms respond without asking for the
verifier. -/
theorem absentVerifierRespondsUnsupported : Obligations.AbsentVerifierRespondsUnsupported := by
  intro arg s habsent
  constructor
  · intro i hi
    have hop : 3 ≤ i.opcode.toNat := by
      simp only [List.mem_cons, List.not_mem_nil, or_false] at hi
      rcases hi with rfl | rfl | rfl <;> simp [Instr.opcode]
    exact exec_verifierCommand_absent hop habsent
  · intro i hi p _
    rcases List.mem_pair.mp hi with rfl | rfl
    · exact ⟨⟨.ok, hash32 arg⟩, rfl, rfl⟩
    · exact ⟨⟨.ok, unhash32 arg⟩, rfl, rfl⟩

/-- A step on the host's turn with a reserved opcode adds the response ILLEGAL_OP with data 0 (R66). -/
theorem step_reserved_responses {c : Cmd} {rest : List Turn} {s t : State} (hstep : step s = .next t)
    (hturn : s.turns = .host c :: rest) (hop : (cmdOp c).toNat = 0 ∨ 6 ≤ (cmdOp c).toNat) :
    t.responses = s.responses ++ [{ status := .illegalOp, data := 0 }] := by
  rw [step_host hturn, acceptCommand_reserved (decode_reserved hop)] at hstep
  cases hstep
  rfl

/-- A step on the host's turn adds the one response to its command. -/
theorem step_host_answersWith {c : Cmd} {rest : List Turn} {s t : State} (hstep : step s = .next t)
    (hturn : s.turns = .host c :: rest) : AnswersWith (resultData c s) s t := by
  obtain ⟨u, hu, hanswer⟩ := acceptCommand_answersWith c { s with turns := rest }
  rw [step_host hturn, hu] at hstep
  cases hstep
  exact hanswer

/-- A step of the verifier or of the platform adds no response. -/
theorem step_not_host_responses {s t : State} (hstep : step s = .next t)
    (hturn : ∀ c rest, s.turns ≠ .host c :: rest) : t.responses = s.responses := by
  rcases step_next_cases hstep with ⟨c, rest, ht, _⟩ | ⟨_, _, rfl⟩ | ⟨_, _, rfl⟩
  · exact absurd ht (hturn c rest)
  · simp
  · simp

/-- Settles O25, by whose turn it is. -/
theorem responsesInCommandOrder : Obligations.ResponsesInCommandOrder := by
  intro s t hstep
  refine ⟨fun c rest hturn => ?_, step_not_host_responses hstep⟩
  obtain ⟨r, hr, herror, hok⟩ := step_host_answersWith hstep hturn
  refine ⟨r, hr, herror, fun hop => ?_, hok⟩
  have hsame := hr.symm.trans (step_reserved_responses hstep hturn hop)
  rw [List.append_cancel_left_eq, List.singleton_inj] at hsame
  rw [hsame]

end Sys2Proof.Machine
end

section
/-! SUPPORT. The forward stages as arithmetic on natural numbers modulo 2^32, and the command word of HASH. -/

namespace Sys2Proof.Machine

/-- The add-with-complement-shift stage modulo 2^32 (R101, R105). -/
theorem addComplementShift_toNat (s : Nat) (x : Word) :
    (addComplementShift s x).toNat =
      (x.toNat + (4294967295 - x.toNat * 2 ^ s % 4294967296)) % 4294967296 := by
  simp [addComplementShift, BitVec.toNat_shiftLeft, Nat.shiftLeft_eq]

/-- The xor-shift stage, whose right shift is a division (R102, R104, R106). -/
theorem xorShift_toNat (s : Nat) (x : Word) : (xorShift s x).toNat = x.toNat ^^^ (x.toNat / 2 ^ s) := by
  rw [xorShift, BitVec.toNat_xor, BitVec.toNat_ushiftRight, Nat.shiftRight_eq_div_pow]

/-- The add-with-shift stage modulo 2^32 (R103). -/
theorem fwdStage3_toNat (x : Word) :
    (fwdStage3 x).toNat = (x.toNat + x.toNat * 2 ^ 3 % 4294967296) % 4294967296 := by
  simp [fwdStage3, BitVec.toNat_shiftLeft, Nat.shiftLeft_eq]

end Sys2Proof.Machine

namespace Sys2Proof

@[simp] theorem cmdOp_encode (i : Instr) : cmdOp (encode i) = i.opcode := cmdOp_packCmd i.opcode i.arg

@[simp] theorem cmdArg_encode (i : Instr) : cmdArg (encode i) = i.arg := cmdArg_packCmd i.opcode i.arg

end Sys2Proof
end

section
/-! The statements about the forward transform and HASH (40_forward_hash). -/

namespace Sys2Proof.Machine

/-- Settles O7, stage by stage: each stage is the natural-number form of its shape, at the value of the stage before. -/
theorem hashIsTheSixStages : Obligations.HashIsTheSixStages := by
  intro x k0 k1 k2 k3 k4 k5 k6
  have h1 : (fwdStage1 x).toNat = k1 := addComplementShift_toNat 15 x
  have h2 : (fwdStage2 (fwdStage1 x)).toNat = k2 := by rw [fwdStage2, xorShift_toNat, h1]
  have h3 : (fwdStage3 (fwdStage2 (fwdStage1 x))).toNat = k3 := by rw [fwdStage3_toNat, h2]
  have h4 : (fwdStage4 (fwdStage3 (fwdStage2 (fwdStage1 x)))).toNat = k4 := by
    rw [fwdStage4, xorShift_toNat, h3]
  have h5 : (fwdStage5 (fwdStage4 (fwdStage3 (fwdStage2 (fwdStage1 x))))).toNat = k5 := by
    rw [fwdStage5, addComplementShift_toNat, h4]
  rw [hash32, fwdStage6, xorShift_toNat, h5]

/-- Settles O16: the fields of the encoded word, and HASH answers without reading the state. -/
theorem hashRespondsHash32 : Obligations.HashRespondsHash32 :=
  fun arg _ => ⟨cmdOp_encode (.hash arg), cmdArg_encode (.hash arg), rfl⟩

end Sys2Proof.Machine
end

section
/-! SUPPORT. The inverse steps as arithmetic on natural numbers modulo 2^32, and the cascade of R121 as a telescoping
sum: its terms up to `j` undo an xor-shift but for one term, which the last shift moves out of the word. -/

namespace Sys2Proof.Machine

/-- A product with a complement, the shape of steps 2 and 6, modulo 2^32 (R123, R127). -/
theorem mul_not_toNat (c k : Word) : (c * ~~~k).toNat = c.toNat * (4294967295 - k.toNat) % 4294967296 := by
  rw [BitVec.toNat_mul, BitVec.toNat_not]

/-- Step 1 is the xor-shift stage it inverts (R122). -/
theorem invStep1_eq_xorShift (k : Word) : invStep1 k = xorShift 16 k := rfl

theorem invStep2_toNat (k : Word) : (invStep2 k).toNat = 4290770943 * (4294967295 - k.toNat) % 4294967296 :=
  mul_not_toNat invMul11 k

theorem invStep3_toNat (k : Word) :
    (invStep3 k).toNat =
      k.toNat ^^^ (k.toNat / 2 ^ 6) ^^^ (k.toNat / 2 ^ 12) ^^^ (k.toNat / 2 ^ 18) ^^^ (k.toNat / 2 ^ 24) ^^^
        (k.toNat / 2 ^ 30) := by
  simp only [invStep3, BitVec.toNat_xor, BitVec.toNat_ushiftRight, Nat.shiftRight_eq_div_pow]

theorem invStep4_toNat (k : Word) : (invStep4 k).toNat = 954437177 * k.toNat % 4294967296 :=
  BitVec.toNat_mul invMul9 k

theorem invStep5_toNat (k : Word) :
    (invStep5 k).toNat = k.toNat ^^^ (k.toNat / 2 ^ 10) ^^^ (k.toNat / 2 ^ 20) ^^^ (k.toNat / 2 ^ 30) := by
  simp only [invStep5, BitVec.toNat_xor, BitVec.toNat_ushiftRight, Nat.shiftRight_eq_div_pow]

theorem invStep6_toNat (k : Word) : (invStep6 k).toNat = 3221192703 * (4294967295 - k.toNat) % 4294967296 :=
  mul_not_toNat invMul15 k

/-- The xor of the first `n` terms of the cascade, `y ^ (y >> s) ^ ... ^ (y >> (n-1)*s)` (R121). -/
def cascadeTerms (s n : Nat) (y : Word) : Word :=
  (List.range n).foldl (fun acc j => acc ^^^ (y >>> (j * s))) 0

theorem cascadeTerms_succ (s n : Nat) (y : Word) :
    cascadeTerms s (n + 1) y = cascadeTerms s n y ^^^ (y >>> (n * s)) := by
  simp only [cascadeTerms, List.range_succ, List.foldl_append, List.foldl_cons, List.foldl_nil]

/-- The terms of an xor-shifted word cancel in pairs; the first and the last remain. -/
theorem cascadeTerms_xorShift (s n : Nat) (x : Word) :
    cascadeTerms s n (xorShift s x) = x ^^^ (x >>> (n * s)) := by
  induction n with
  | zero => simp [cascadeTerms]
  | succ n ih =>
    have term : xorShift s x >>> (n * s) = x >>> (n * s) ^^^ x >>> ((n + 1) * s) := by
      rw [xorShift, BitVec.ushiftRight_xor_distrib, ← BitVec.shiftRight_add, Nat.add_comm s, ← Nat.succ_mul]
    rw [cascadeTerms_succ, ih, term, BitVec.xor_assoc, ← BitVec.xor_assoc (x >>> (n * s)), BitVec.xor_self,
      BitVec.zero_xor]

/-- The multiples of `s` below 32 are those of the factors `0` to `31 / s`. -/
theorem mul_lt_width_iff {s : Nat} (hs : 0 < s) (j : Nat) : j * s < 32 ↔ j < 31 / s + 1 :=
  calc j * s < 32
    _ ↔ j * s ≤ 31 := Nat.lt_succ_iff
    _ ↔ j ≤ 31 / s := (Nat.le_div_iff_mul_le hs).symm
    _ ↔ j < 31 / s + 1 := Nat.lt_succ_iff.symm

theorem width_le_next_mul {s : Nat} (hs : 0 < s) : 32 ≤ (31 / s + 1) * s :=
  Nat.le_of_not_lt fun h => lt_irrefl _ ((mul_lt_width_iff hs _).mp h)

/-- The shift amounts of a cascade are the multiples `j * s` for `j` from 0 to `m = 31 / s` (R121). -/
theorem cascadeShifts_eq_map_range {s : Nat} (hs : 0 < s) :
    cascadeShifts s = (List.range (31 / s + 1)).map (· * s) := by
  have below : ((· < 32) ∘ (· * s) : Nat → Bool) = (· < 31 / s + 1) := by
    funext j
    simpa using mul_lt_width_iff hs j
  have hm : 31 / s + 1 ≤ 32 := Nat.succ_le_succ (Nat.div_le_self 31 s)
  rw [cascadeShifts, List.filter_map, below, ← List.Ico.zero_bot 32, List.Ico.filter_lt_of_ge hm, List.Ico.zero_bot]

theorem cascade_eq_cascadeTerms {s : Nat} (hs : 0 < s) (y : Word) : cascade s y = cascadeTerms s (31 / s + 1) y := by
  rw [cascade, cascadeShifts_eq_map_range hs, List.foldl_map, cascadeTerms]

/-- The cascade inverts the xor-shift stage: the term left over is shifted by at least the width (R121). -/
theorem cascade_xorShift {s : Nat} (hs : 0 < s) (x : Word) : cascade s (xorShift s x) = x := by
  rw [cascade_eq_cascadeTerms hs, cascadeTerms_xorShift, BitVec.ushiftRight_eq_zero (width_le_next_mul hs),
    BitVec.xor_zero]

end Sys2Proof.Machine
end

section
/-! The statements about the inverse transform and UNHASH (41_inverse_unhash). -/

namespace Sys2Proof.Machine

/-- Settles O8, step by step: each inverse step is its natural-number form, at the value of the step before. -/
theorem unhashIsTheSixInverseSteps : Obligations.UnhashIsTheSixInverseSteps := by
  intro y k6 k5 k4 k3 k2 k1 k0
  have h5 : (invStep1 y).toNat = k5 := by rw [invStep1_eq_xorShift, xorShift_toNat]
  have h4 : (invStep2 (invStep1 y)).toNat = k4 := by rw [invStep2_toNat, h5]
  have h3 : (invStep3 (invStep2 (invStep1 y))).toNat = k3 := by rw [invStep3_toNat, h4]
  have h2 : (invStep4 (invStep3 (invStep2 (invStep1 y)))).toNat = k2 := by rw [invStep4_toNat, h3]
  have h1 : (invStep5 (invStep4 (invStep3 (invStep2 (invStep1 y))))).toNat = k1 := by rw [invStep5_toNat, h2]
  rw [unhash32, invStep6_toNat, h1]

/-- Settles O11, with `m = 31 / s`: the cascade is its terms up to `m`, and they telescope on an xor-shifted word. -/
theorem cascadeInvertsXorShift : Obligations.CascadeInvertsXorShift := by
  constructor
  · rintro s y ⟨hs, -⟩
    refine ⟨31 / s, (mul_lt_width_iff hs _).mpr (Nat.lt_succ_self _), width_le_next_mul hs, ?_, ?_, ?_,
      cascade_eq_cascadeTerms hs y⟩
    all_goals
      rintro rfl
      decide
  · rintro s x ⟨hs, -⟩
    exact cascade_xorShift hs x

/-- Settles O17: the fields of the encoded word, and UNHASH answers without reading the state. -/
theorem unhashRespondsUnhash32 : Obligations.UnhashRespondsUnhash32 :=
  fun arg _ => ⟨cmdOp_encode (.unhash arg), cmdArg_encode (.unhash arg), rfl⟩

end Sys2Proof.Machine
end

section
/-! SUPPORT. The verifier's commands when it is present, the status word as a number, and what each step does to a sweep. -/

namespace Sys2Proof.Machine

theorem exec_vstart_present {s : State} (h : s.params.hasVerifier = true) (arg : Word) :
    exec (.vstart arg) s = .next (startSweep s) := congrArg _ (whenVerifier_present h)

theorem exec_vstat_present {s : State} (h : s.params.hasVerifier = true) (arg : Word) :
    exec (.vstat arg) s = .next (respond .ok (statusWord s) s) := congrArg _ (whenVerifier_present h)

theorem exec_vcount_present {s : State} (h : s.params.hasVerifier = true) (arg : Word) :
    exec (.vcount arg) s = .next (respond .ok (trunc32 s.vcnt) s) := congrArg _ (whenVerifier_present h)

/-- From IDLE and PASS, VSTART starts the sweep (R141). -/
theorem exec_vstart_of_idle_or_pass {s : State} (hv : s.params.hasVerifier = true)
    (hs : s.vstate = .idle ∨ s.vstate = .pass) (arg : Word) :
    exec (.vstart arg) s = .next (respond .ok 0 (setSweep .running 0 s)) := by
  rw [exec_vstart_present hv]
  rcases hs with hs | hs <;> simp only [startSweep, hs]

theorem exec_vstart_of_running {s : State} (hv : s.params.hasVerifier = true) (hs : s.vstate = .running)
    (arg : Word) : exec (.vstart arg) s = .next (respondError .busy s) := by
  simp only [exec_vstart_present hv, startSweep, hs]

theorem exec_vstart_of_fail {s : State} (hv : s.params.hasVerifier = true) (hs : s.vstate = .fail)
    (arg : Word) : exec (.vstart arg) s = .next (respondError .failed s) := by
  simp only [exec_vstart_present hv, startSweep, hs]

/-- The counter's top bit is its quotient by 2^32 (R26). -/
theorem cntHi_toNat (n : Count) : (cntHi n).toNat = n.toNat / 2 ^ 32 := by
  have hn := n.isLt
  simp only [cntHi, BitVec.extractLsb'_toNat, Nat.shiftRight_eq_div_pow]
  omega

/-- Up to 2^32 the percentage fits its field (R23, R26). -/
theorem pctField_toNat {n : Count} (hn : n.toNat ≤ 4294967296) : (pctField n).toNat = 100 * n.toNat / 2 ^ 32 := by
  simp only [pctField, percent, Config.domain, BitVec.toNat_ofNat]
  omega

theorem zext32_toNat {n : Nat} (hn : n ≤ 32) (f : BitVec n) : (zext32 f).toNat = f.toNat :=
  BitVec.toNat_setWidth_of_le hn

/-- A field shifted above a word that ends below it adds to that word. -/
theorem zext32_shiftLeft_or_toNat {n k : Nat} (hk : n + k ≤ 32) (f : BitVec n) {low : Word}
    (hlow : low.toNat < 2 ^ k) : (zext32 f <<< k ||| low).toNat = 2 ^ k * f.toNat + low.toNat := by
  have fits : f.toNat * 2 ^ k < 2 ^ 32 :=
    calc f.toNat * 2 ^ k
      _ < 2 ^ n * 2 ^ k := Nat.mul_lt_mul_of_pos_right f.isLt (Nat.two_pow_pos k)
      _ = 2 ^ (n + k) := (Nat.pow_add 2 n k).symm
      _ ≤ 2 ^ 32 := Nat.pow_le_pow_right (by decide) hk
  rw [BitVec.toNat_or, BitVec.toNat_shiftLeft, zext32_toNat (Nat.le_of_add_right_le hk), Nat.shiftLeft_eq,
    Nat.mod_eq_of_lt fits, Nat.mul_comm, ← Nat.two_pow_add_eq_or_of_lt hlow]

/-- The three fields of the status word do not overlap, so joining them is adding them (R26). -/
theorem statusWord_toNat (s : State) :
    (statusWord s).toNat = 8 * (pctField s.vcnt).toNat + 4 * (cntHi s.vcnt).toNat + s.vstate.code.toNat := by
  have hstate : (zext32 s.vstate.code).toNat = s.vstate.code.toNat := zext32_toNat (by decide) _
  have hcode := s.vstate.code.isLt
  have hlow := zext32_shiftLeft_or_toNat (k := 2) (by decide) (cntHi s.vcnt) (hstate.trans_lt hcode)
  have hhi := (cntHi s.vcnt).isLt
  rw [statusWord, BitVec.or_assoc, zext32_shiftLeft_or_toNat (by decide) _ (by omega), hlow, hstate]
  omega

/-- Bit 2 of the status word is `CNT_HI` (R26). -/
theorem statusWord_extract_cntHi (s : State) : (statusWord s).extractLsb' 2 1 = cntHi s.vcnt := by
  apply BitVec.eq_of_toNat_eq
  have hc := (cntHi s.vcnt).isLt
  have hv := s.vstate.code.isLt
  rw [BitVec.extractLsb'_toNat, statusWord_toNat, Nat.shiftRight_eq_div_pow]
  omega

/-- The status word just after VSTART is 1 (R160). -/
theorem statusWord_eq_one {s : State} (hv : s.vstate = .running) (hc : s.vcnt = 0) : statusWord s = 1 := by
  rw [statusWord, hv, hc]
  decide

/-- The status word of a sweep that has passed (R160). -/
theorem statusWord_of_pass {s : State} (hv : s.vstate = .pass) (hc : s.vcnt = 4294967296) : statusWord s = 0x326 := by
  rw [statusWord, hv, hc]
  decide

@[simp] theorem verifierStep_params (s : State) : (verifierStep s).params = s.params :=
  verifierStepWith_params roundTrip s

/-- The verifier's step keeps VSTATE or ends the sweep (R145). -/
theorem verifierStep_vstate (s : State) :
    (verifierStep s).vstate = s.vstate ∨ (verifierStep s).vstate = .pass ∨ (verifierStep s).vstate = .fail := by
  rw [verifierStep, verifierStepWith]
  rcases checkIndex_cases roundTrip (emitProgress s) with ⟨_, h⟩ | ⟨_, h⟩ <;> rw [h, setSweep_vstate]
  · split
    · exact .inr (.inl rfl)
    · exact .inl (emitProgress_vstate s)
  · exact .inr (.inr rfl)

/-- A command word in RUNNING does nothing but respond (R162). -/
theorem acceptCommand_of_running {s : State} (hs : s.vstate = .running) (c : Cmd) :
    ∃ st d, acceptCommand c s = .next (respond st d s) := by
  rcases acceptCommand_cases c s with ⟨st, d, _, h⟩ | ⟨_, _, hidle | hpass, _⟩
  · exact ⟨st, d, h⟩
  · cases hs.symm.trans hidle
  · cases hs.symm.trans hpass

/-- The verifier at the last index of a sweep: its next step changes every field of the status word. -/
def atLastIndex : State := { State.reset with vstate := .running, vcnt := 4294967295 }

end Sys2Proof.Machine
end

section
/-! The statements about the verifier (42_verifier). -/

namespace Sys2Proof.Machine

/-- Settles O19, by VSTATE: the first VSTART leaves the block RUNNING, where the second is turned away. -/
theorem vstartStartsOrIsTurnedAway : Obligations.VstartStartsOrIsTurnedAway := by
  intro arg arg2 s
  refine ⟨cmdOp_encode _, fun hv hs => ?_, fun hv hs => exec_vstart_of_running hv hs arg,
    fun hv hs => exec_vstart_of_fail hv hs arg, exec_verifierCommand_absent (by simp [Instr.opcode])⟩
  exact ⟨_, exec_vstart_of_idle_or_pass hv hs arg, rfl,
    exec_vstart_of_running (s := respond .ok 0 (setSweep .running 0 s)) hv rfl arg2⟩

/-- Settles O20: the status word as the sum of its fields, and the last step of a sweep as the one that changes it. -/
theorem vstatRespondsStatusWord : Obligations.VstatRespondsStatusWord := by
  refine ⟨fun arg s => ⟨cmdOp_encode _, fun hv => ?_, exec_verifierCommand_absent (by simp [Instr.opcode])⟩,
    atLastIndex, by decide, by decide⟩
  refine ⟨statusWord s, exec_vstat_present hv arg, fun hn => ?_, statusWord_eq_zero, statusWord_eq_one,
    fun hpass hn => statusWord_of_pass hpass (BitVec.eq_of_toNat_eq hn)⟩
  rw [statusWord_toNat, pctField_toNat hn, cntHi_toNat]

/-- Settles O22: the low 32 bits are the remainder by 2^32, and `CNT_HI` is the quotient. -/
theorem vcountRespondsLowBits : Obligations.VcountRespondsLowBits := by
  intro arg s
  refine ⟨cmdOp_encode _, fun hv => ?_, exec_verifierCommand_absent (by simp [Instr.opcode])⟩
  have low := trunc32_toNat s.vcnt
  refine ⟨trunc32 s.vcnt, exec_vcount_present hv arg, low, fun hn => ?_, fun hn => ?_, ?_⟩
  · apply BitVec.eq_of_toNat_eq
    rw [low, hn]
    rfl
  · rw [low, Nat.mod_eq_of_lt hn]
  · rw [statusWord_extract_cntHi, cntHi_toNat, low]
    exact (Nat.div_add_mod _ _).symm

/-- Settles O40, by the effect of the step: outside RUNNING the verifier has no step, and a response alone writes
neither VSTATE nor VCNT. -/
theorem sweepStartsOnlyByVstart : Obligations.SweepStartsOnlyByVstart := by
  intro s t h hs
  rcases step_next_effects h with
    ⟨_, _, _, _, _, _, rfl⟩ | ⟨a, rest, hturn, _, hstart, rfl⟩ | ⟨_, he, _⟩ | ⟨rest, hturn, rfl⟩
  · exact ⟨fun ht => absurd ht hs, fun _ _ => ⟨rfl, rfl⟩⟩
  · exact ⟨fun _ => ⟨a, rest, hturn, hstart⟩, fun ht => absurd rfl ht⟩
  · exact absurd ((verifierEnabled_iff s).mp he).2 hs
  · exact ⟨fun ht => by simp at ht, fun _ hreset => absurd hturn (hreset rest)⟩

/-- A step other than a reset keeps a running sweep running, or ends it in PASS or FAIL (R162). -/
theorem step_of_running {s t : State} (hv : s.params.hasVerifier = true) (hs : s.vstate = .running)
    (h : step s = .next t) (hreset : ∀ rest, s.turns ≠ .platform :: rest) :
    (t.vstate = .running ∧ verifierEnabled t = true) ∨ t.vstate = .pass ∨ t.vstate = .fail := by
  rcases step_next_effects h with
    ⟨_, _, _, _, _, _, rfl⟩ | ⟨_, _, _, _, hidle | hpass, _⟩ | ⟨_, _, rfl⟩ | ⟨rest, hturn, _⟩
  · exact .inl ⟨hs, (verifierEnabled_iff _).mpr ⟨hv, hs⟩⟩
  · cases hs.symm.trans hidle
  · cases hs.symm.trans hpass
  · refine (verifierStep_vstate _).imp_left fun hkept => ?_
    have hrunning := hkept.trans hs
    exact ⟨hrunning, (verifierEnabled_iff _).mpr ⟨by simpa using hv, hrunning⟩⟩
  · exact absurd hturn (hreset rest)

/-- Settles O41: in RUNNING a command only responds, and the other steps are the verifier's own or a reset. -/
theorem noCommandStopsASweep : Obligations.NoCommandStopsASweep := by
  refine ⟨fun c s t hv hs h => ?_, fun s t => step_of_running⟩
  obtain ⟨st, d, hanswer⟩ := acceptCommand_of_running hs c
  cases hanswer.symm.trans h
  exact ⟨hs, rfl, rfl, (verifierEnabled_iff s).mpr ⟨hv, hs⟩⟩

end Sys2Proof.Machine
end

section
/-! SUPPORT. The status of each command word, by the table of R200. -/

namespace Sys2Proof.Machine

/-- The table of R200, in the order of R203: the status of the command `c` in the state `s`. -/
def tableStatus (c : Cmd) (s : State) : Status :=
  if (cmdOp c).toNat = 0 ∨ 6 ≤ (cmdOp c).toNat then .illegalOp
  else if 3 ≤ (cmdOp c).toNat ∧ s.params.hasVerifier = false then .unsupported
  else if (cmdOp c).toNat = 3 ∧ s.vstate = .running then .busy
  else if (cmdOp c).toNat = 3 ∧ s.vstate = .fail then .failed
  else .ok

/-- `t` has one response more than `s`, of status `st`; an error has data 0 and writes nothing else (R200). -/
def GetsStatus (st : Status) (s t : State) : Prop :=
  ∃ r : Response, t.responses = s.responses ++ [r] ∧ r.status = st ∧
    (r.status ≠ .ok → r.data = 0 ∧ t = { s with responses := s.responses ++ [r] })

theorem getsStatus_respondError (st : Status) (s : State) : GetsStatus st s (respondError st s) :=
  ⟨_, rfl, rfl, fun _ => ⟨rfl, rfl⟩⟩

/-- An OK response may come with a write of the other fields, as VSTART's does. -/
theorem getsStatus_ok {s t : State} {d : Word} (h : t.responses = s.responses ++ [⟨.ok, d⟩]) : GetsStatus .ok s t :=
  ⟨_, h, rfl, fun hne => absurd rfl hne⟩

/-- VSTART with a verifier: BUSY in RUNNING, FAILED in FAIL, else OK (R141). -/
theorem startSweep_getsStatus {c : Cmd} {s : State} (hop : cmdOp c = 3) (hv : s.params.hasVerifier = true) :
    GetsStatus (tableStatus c s) s (startSweep s) := by
  rcases startSweep_cases s with ⟨hidle | hpass, h⟩ | ⟨hs, h⟩ | ⟨hs, h⟩ <;> rw [h]
  · simpa [tableStatus, hop, hv, hidle] using getsStatus_ok rfl
  · simpa [tableStatus, hop, hv, hpass] using getsStatus_ok rfl
  · simpa [tableStatus, hop, hv, hs] using getsStatus_respondError .busy s
  · simpa [tableStatus, hop, hv, hs] using getsStatus_respondError .failed s

/-- A verifier command is UNSUPPORTED without a verifier (R67), so only its answer with one is left to show. -/
theorem whenVerifier_getsStatus {c : Cmd} {k : State → State} {s : State} (hlow : 3 ≤ (cmdOp c).toNat)
    (hhigh : (cmdOp c).toNat ≤ 5) (hk : s.params.hasVerifier = true → GetsStatus (tableStatus c s) s (k s)) :
    GetsStatus (tableStatus c s) s (whenVerifier k s) := by
  cases hv : s.params.hasVerifier with
  | true =>
    rw [whenVerifier_present hv]
    exact hk hv
  | false =>
    have hdefined : ¬((cmdOp c).toNat = 0 ∨ 6 ≤ (cmdOp c).toNat) := by omega
    rw [whenVerifier_absent hv, tableStatus, if_neg hdefined, if_pos ⟨hlow, hv⟩]
    exact getsStatus_respondError .unsupported s

/-- Every command word gets one response with the status of the table (R200). -/
theorem acceptCommand_getsStatus (c : Cmd) (s : State) :
    ∃ t, acceptCommand c s = .next t ∧ GetsStatus (tableStatus c s) s t := by
  rcases decode_cases c with ⟨ho, hd⟩ | ⟨ho, hd⟩ | ⟨ho, hd⟩ | ⟨ho, hd⟩ | ⟨ho, hd⟩ | ⟨hreserved, hd⟩
  case inr.inr.inr.inr.inr =>
    refine ⟨_, acceptCommand_reserved hd s, ?_⟩
    rw [tableStatus, if_pos hreserved]
    exact getsStatus_respondError .illegalOp s
  all_goals refine ⟨_, acceptCommand_instr hd s, ?_⟩
  · simpa [tableStatus, ho] using getsStatus_ok rfl
  · simpa [tableStatus, ho] using getsStatus_ok rfl
  · exact whenVerifier_getsStatus (by simp [ho]) (by simp [ho]) (startSweep_getsStatus ho)
  · refine whenVerifier_getsStatus (by simp [ho]) (by simp [ho]) fun hv => ?_
    simpa [tableStatus, ho, hv] using getsStatus_ok rfl
  · refine whenVerifier_getsStatus (by simp [ho]) (by simp [ho]) fun hv => ?_
    simpa [tableStatus, ho, hv] using getsStatus_ok rfl

@[simp] theorem ofCode_code (st : Status) : Status.ofCode st.code = some st := by cases st <;> rfl

end Sys2Proof.Machine
end

section
/-! The statements about errors and their statuses (60_exceptions). -/

namespace Sys2Proof.Machine

/-- Settles O24: the status of a command is the entry of the table for it, and the codes are those of the status names. -/
theorem everyCommandGetsItsStatus : Obligations.EveryCommandGetsItsStatus := by
  refine ⟨fun c s => ?_, ⟨rfl, rfl, rfl, rfl, rfl⟩, ofCode_code, rfl, rfl, rfl⟩
  obtain ⟨t, haccept, r, hresponses, hstatus, herror⟩ := acceptCommand_getsStatus c s
  exact ⟨r, t, haccept, hresponses, hstatus, herror⟩

end Sys2Proof.Machine
end

section
/-! SUPPORT. The reset step in every state, and every other step from the states that turn VSTART away. -/

namespace Sys2Proof.Machine

/-- On the platform's turn a step is the reset, with the turn taken off (R240). -/
theorem step_platform {rest : List Turn} {s : State} (h : s.turns = .platform :: rest) :
    step s = .next (applyReset { s with turns := rest }) := by
  simp only [step, nextStep, h, takeTurn]

/-- From RUNNING or FAIL a step that is no reset leaves VSTATE and VCNT alone, or is the verifier's, from RUNNING: VSTART
is turned away there (R141). -/
theorem step_of_running_or_fail {s t : State} (hs : s.vstate = .running ∨ s.vstate = .fail) (h : step s = .next t)
    (hreset : ∀ rest, s.turns ≠ .platform :: rest) :
    (t.vstate = s.vstate ∧ t.vcnt = s.vcnt) ∨
    (s.vstate = .running ∧ t = verifierStep { s with turns := s.turns.tail }) := by
  rcases step_next_effects h with
    ⟨_, _, _, _, _, _, rfl⟩ | ⟨_, _, _, _, hstart, _⟩ | ⟨_, he, ht⟩ | ⟨rest, hturn, _⟩
  · exact .inl ⟨rfl, rfl⟩
  · rcases hs with hs | hs <;> simp [hs] at hstart
  · exact .inr ⟨((verifierEnabled_iff s).mp he).2, ht⟩
  · exact absurd hturn (hreset rest)

end Sys2Proof.Machine
end

section
/-! The statements about reset (70_reset_and_hazards). -/

namespace Sys2Proof.Machine

/-- Settles O33: the platform's turn is the reset, and from FAIL no other step writes VSTATE, while from RUNNING only the
verifier's does, to PASS or FAIL. -/
theorem resetStepWritesResetValues : Obligations.ResetStepWritesResetValues := by
  refine ⟨fun s rest hturn => ?_, fun s t h hreset => ⟨fun hfail => ?_, fun hrunning => ?_⟩⟩
  · exact ⟨_, step_platform hturn, rfl, verDone_eq_false_of_idle rfl, verPass_eq_false_of_idle rfl⟩
  · rcases step_of_running_or_fail (.inr hfail) h hreset with ⟨hv, hc⟩ | ⟨hs, _⟩
    · exact ⟨hv.trans hfail, hc⟩
    · cases hs.symm.trans hfail
  · rcases step_of_running_or_fail (.inl hrunning) h hreset with ⟨hv, _⟩ | ⟨_, rfl⟩
    · exact .inl (hv.trans hrunning)
    · exact (verifierStep_vstate _).imp_left (·.trans hrunning)

end Sys2Proof.Machine
end

section
/-! SUPPORT. The round trip of decoder and encoder, and the columns of the opcode table. -/

namespace Sys2Proof

theorem decode_encode (i : Instr) : decode (encode i) = .instr i := by
  rw [decode, cmdOp_encode, cmdArg_encode]
  cases i <;> rfl

/-- A word that decodes to a command is that command's word: its two fields are the command's (R60, R63). -/
theorem decode_eq_instr_iff {c : Cmd} {i : Instr} : decode c = .instr i ↔ encode i = c := by
  constructor
  · intro h
    rcases decode_cases c with ⟨ho, hd⟩ | ⟨ho, hd⟩ | ⟨ho, hd⟩ | ⟨ho, hd⟩ | ⟨ho, hd⟩ | ⟨_, hd⟩
    case inr.inr.inr.inr.inr => cases hd.symm.trans h
    all_goals
      cases hd.symm.trans h
      rw [encode, Instr.opcode, Instr.arg, ← ho, packCmd_fields]
  · rintro rfl
    exact decode_encode i

/-- The `match` column is the command word of the opcode with an argument of zeros (opcode_table.json). -/
theorem tableMatch_eq_packCmd (i : Instr) : i.tableMatch = packCmd i.opcode 0 := by
  cases i <;> (simp only [Instr.tableMatch, Instr.opcode]; decide)

/-- Under the table's mask a word is its opcode alone, so it matches exactly the row of its opcode. -/
theorem matches_row_iff (c : Cmd) (i : Instr) : c &&& tableMask = i.tableMatch ↔ cmdOp c = i.opcode := by
  have hmask : c &&& tableMask = packCmd (cmdOp c) 0 := by
    rw [← Laws.TableRow.masked (cmdOp c) (cmdArg c), packCmd_fields]
  rw [hmask, tableMatch_eq_packCmd]
  exact ⟨fun h => by simpa using congrArg cmdOp h, fun h => by rw [h]⟩

/-- A command's word is the one word with its opcode and its argument (R60). -/
theorem encode_eq_iff (i : Instr) (c : Cmd) : encode i = c ↔ cmdOp c = i.opcode ∧ cmdArg c = i.arg := by
  constructor
  · rintro rfl
    exact ⟨cmdOp_encode i, cmdArg_encode i⟩
  · rintro ⟨hop, harg⟩
    rw [encode, ← hop, ← harg, packCmd_fields]

theorem tableCommand_eq_some_iff (nbits w : Nat) (c : Cmd) :
    tableCommand nbits w = some c ↔ w % 2 ^ nbits < 2 ^ 36 ∧ BitVec.ofNat 36 (w % 2 ^ nbits) = c := by
  simp [tableCommand, isCommandWord]

theorem decodeTableWord_eq_some_iff (nbits w : Nat) (i : Instr) :
    decodeTableWord nbits w = some i ↔ ∃ c, tableCommand nbits w = some c ∧ decode c = .instr i := by
  rw [decodeTableWord]
  cases tableCommand nbits w with
  | none => simp
  | some c => cases hd : decode c <;> simp [hd]

end Sys2Proof

namespace Sys2Proof.Machine

/-- A placed word is the host's next command. -/
theorem step_withFetchWord {nbits w : Nat} {c : Cmd} (h : tableCommand nbits w = some c) (s : State) :
    step (s.withFetchWord nbits w) = acceptCommand c s := by
  rw [State.withFetchWord, h]
  exact step_host (withCommand_turns c s)

end Sys2Proof.Machine
end

section
/-! The statements about the encoding of commands (30_encoding) and the host's turn (70_reset_and_hazards). -/

namespace Sys2Proof.Machine

/-- Settles O2: the decoder reads back the opcode and the argument that the encoder packs. -/
theorem decodeOfEncodeIsTheCommand : Obligations.DecodeOfEncodeIsTheCommand := decode_encode

/-- Settles O3: a word is made of its two fields, so the command keeps every bit of it. -/
theorem encodeOfDecodeIsTheWord : Obligations.EncodeOfDecodeIsTheWord :=
  fun _ _ => decode_eq_instr_iff.mp

/-- Settles O4: decoding to a command, having its opcode and argument, and matching its row are one condition. -/
theorem decodeAgreesWithOpcodeTable : Obligations.DecodeAgreesWithOpcodeTable := by
  intro c i
  rw [decode_eq_instr_iff, encode_eq_iff, matches_row_iff]

/-- Settles O6: the number is the word the host issues, and the placed word is taken by the next step. -/
theorem tableWordIsTheNextCommand : Obligations.TableWordIsTheNextCommand := by
  intro s nbits w i
  rw [decodeTableWord_eq_some_iff]
  constructor
  · simp only [tableCommand_eq_some_iff, and_assoc, exists_and_left, exists_eq_left']
  · rintro ⟨c, hc, hd⟩
    rw [step_withFetchWord hc, acceptCommand_instr hd]

/-- Settles O1, by running the decoder on each word. -/
theorem writtenCommandWordsDecode : Obligations.WrittenCommandWordsDecode := by
  unfold Obligations.WrittenCommandWordsDecode
  decide

/-- Settles O27: the host's turn accepts the word, and acceptance runs the decoded command. -/
theorem stepRunsTheDecodedCommand : Obligations.StepRunsTheDecodedCommand := by
  intro s c rest i hturn hd
  rw [step_host hturn, acceptCommand_instr hd]

/-- Settles O28: the host's turn accepts the word, and a reserved opcode is answered with ILLEGAL_OP. -/
theorem stepAnswersAReservedOpcode : Obligations.StepAnswersAReservedOpcode := by
  intro s c rest op hturn hd
  rw [step_host hturn, acceptCommand_reserved hd]
  rfl

/-- Settles O26: a command responds, and VSTART alone may write the sweep besides. -/
theorem commandFrame : Obligations.CommandFrame := by
  intro i s t h
  rcases exec_cases i s with ⟨st, d, _, he⟩ | ⟨a, rfl, _, _, he⟩
  · cases he.symm.trans h
    exact ⟨rfl, rfl, rfl, ⟨_, rfl⟩, fun _ => ⟨rfl, rfl⟩⟩
  · cases he.symm.trans h
    exact ⟨rfl, rfl, rfl, ⟨_, rfl⟩, fun hne => absurd rfl (hne a)⟩

end Sys2Proof.Machine
end

section
/-! SUPPORT. The algebra of the six stages: each inverse step undoes its forward stage, so the round trip is the
identity. -/

namespace Sys2Proof.Machine

/-- An add-with-complement-shift stage as a multiplication (R101, R105). -/
theorem addComplementShift_eq_mul (s : Nat) (x : Word) :
    addComplementShift s x = -((BitVec.ofNat 32 (2 ^ s) - 1) * x) - 1 := by
  rw [← not_eq_neg_sub_one, mul_comm, ← not_addComplementShift, BitVec.not_not]

theorem fwdStage3_eq_mul (x : Word) : fwdStage3 x = 9 * x := by
  have hshift : x <<< 3 = x * 8 := shiftLeft_eq_mul x 3
  rw [fwdStage3, hshift]
  ring

/-- The bits of an xor-shift stage: the highest `s` stay (R102, R104, R106). -/
theorem xorShift_getLsbD_eq_ite {s b : Nat} (hb : b + s = 32) (x : Word) (j : Nat) :
    (xorShift s x).getLsbD j = (if j < b then x.getLsbD j ^^ x.getLsbD (j + s) else x.getLsbD j) := by
  rw [xorShift_getLsbD, Nat.add_comm s j]
  split
  · rfl
  · rw [BitVec.getLsbD_of_ge x (j + s) (by omega), Bool.xor_false]

/-- Multiplying the complement by the inverse of `2^s - 1` undoes an add-with-complement-shift stage (R123, R127). -/
theorem mul_not_addComplementShift {s : Nat} {c : Word} (hc : c * (BitVec.ofNat 32 (2 ^ s) - 1) = 1) (x : Word) :
    c * ~~~(addComplementShift s x) = x := by
  rw [not_addComplementShift, mul_left_comm, hc, mul_one]

theorem invStep1_eq_cascade (k : Word) : invStep1 k = cascade 16 k := by
  simp [cascade, show cascadeShifts 16 = [0, 16] by decide, invStep1]

theorem invStep3_eq_cascade (k : Word) : invStep3 k = cascade 6 k := by
  simp [cascade, show cascadeShifts 6 = [0, 6, 12, 18, 24, 30] by decide, invStep3]

theorem invStep5_eq_cascade (k : Word) : invStep5 k = cascade 10 k := by
  simp [cascade, show cascadeShifts 10 = [0, 10, 20, 30] by decide, invStep5]

@[simp] theorem invStep1_fwdStage6 (k : Word) : invStep1 (fwdStage6 k) = k := by
  rw [invStep1_eq_cascade, fwdStage6, cascade_xorShift (by decide)]

@[simp] theorem invStep2_fwdStage5 (k : Word) : invStep2 (fwdStage5 k) = k :=
  mul_not_addComplementShift (by decide) k

@[simp] theorem invStep3_fwdStage4 (k : Word) : invStep3 (fwdStage4 k) = k := by
  rw [invStep3_eq_cascade, fwdStage4, cascade_xorShift (by decide)]

@[simp] theorem invStep4_fwdStage3 (k : Word) : invStep4 (fwdStage3 k) = k := by
  rw [invStep4, fwdStage3_eq_mul, ← mul_assoc, show invMul9 * 9 = 1 by decide, one_mul]

@[simp] theorem invStep5_fwdStage2 (k : Word) : invStep5 (fwdStage2 k) = k := by
  rw [invStep5_eq_cascade, fwdStage2, cascade_xorShift (by decide)]

@[simp] theorem invStep6_fwdStage1 (k : Word) : invStep6 (fwdStage1 k) = k :=
  mul_not_addComplementShift (by decide) k

/-- From the last stage to the first, each inverse step meets the stage it undoes (R128). -/
@[simp] theorem unhash32_hash32 (x : Word) : unhash32 (hash32 x) = x := by
  rw [unhash32, hash32, invStep1_fwdStage6, invStep2_fwdStage5, invStep3_fwdStage4, invStep4_fwdStage3,
    invStep5_fwdStage2, invStep6_fwdStage1]

/-- The words are finitely many, so the injective `hash32` is also surjective (R108). -/
theorem hash32_bijective : Function.Bijective hash32 := by
  have : Finite Word := Finite.of_injective _ BitVec.toFin_injective
  exact Function.Injective.bijective_of_finite (Function.LeftInverse.injective unhash32_hash32)

/-- A product does not change when both factors are negated, and the complement is the negation of the successor
(90_conflicts C1). -/
theorem neg_mul_not (c y : Word) : -c * ~~~y = c * (y + 1) := by
  rw [not_eq_neg_sub_one]
  ring

end Sys2Proof.Machine
end

section
/-! The statements about the two engines (40_forward_hash, 41_inverse_unhash). -/

namespace Sys2Proof.Machine

/-- Settles O9: complement and shift as negation and multiplication. -/
theorem forwardStagesHaveMultiplyForms : Obligations.ForwardStagesHaveMultiplyForms :=
  fun k => ⟨addComplementShift_eq_mul 15 k, fwdStage3_eq_mul k, addComplementShift_eq_mul 11 k⟩

/-- Settles O10: the three stages are the xor-shift at 10, 6 and 16. -/
theorem xorShiftStagesBitByBit : Obligations.XorShiftStagesBitByBit :=
  fun k j _ => ⟨xorShift_getLsbD_eq_ite (by decide) k j, xorShift_getLsbD_eq_ite (by decide) k j,
    xorShift_getLsbD_eq_ite (by decide) k j⟩

/-- Settles O12, step by step. -/
theorem inverseStepsUndoTheStages : Obligations.InverseStepsUndoTheStages :=
  fun k => ⟨invStep1_fwdStage6 k, invStep2_fwdStage5 k, invStep3_fwdStage4 k, invStep4_fwdStage3 k,
    invStep5_fwdStage2 k, invStep6_fwdStage1 k, invStep1_eq_cascade k, invStep3_eq_cascade k, invStep5_eq_cascade k⟩

/-- Settles O13: the two constants of C1 are the negated multipliers, and on the complement they fail at the word 1. -/
theorem complementInverseNeedsPlusOneForm : Obligations.ComplementInverseNeedsPlusOneForm := by
  refine ⟨fun y => ⟨neg_mul_not 1073774593 y, neg_mul_not 4196353 y⟩, ⟨1, ?_⟩, ⟨1, ?_⟩⟩
  · decide
  · decide

/-- Settles O14: the inverse steps undo the stages in reverse order. -/
theorem unhashInvertsHash : Obligations.UnhashInvertsHash := unhash32_hash32

/-- Settles O15: a left inverse of a bijection is its inverse, and bijective. -/
theorem hashAndUnhashAreBijections : Obligations.HashAndUnhashAreBijections := by
  have hright : Function.RightInverse unhash32 hash32 :=
    Function.LeftInverse.rightInverse_of_surjective unhash32_hash32 hash32_bijective.surjective
  exact ⟨hright, hash32_bijective, hright.injective, Function.RightInverse.surjective unhash32_hash32⟩

end Sys2Proof.Machine
end

section
/-! SUPPORT. The verifier's step as one write of VSTATE, VCNT and the trace, and the fields of the status word. -/

namespace Sys2Proof.Machine

theorem roundTrip_eq (x : Word) : roundTrip x = x := unhash32_hash32 x

/-- The event of an index, where one is due (R150). -/
def dueEvent (n : Count) : List Progress := if n.toNat % Config.progInterval = 0 then [progressAt n] else []

theorem emitProgress_eq (s : State) : emitProgress s = { s with ptrace := s.ptrace ++ dueEvent s.vcnt } := by
  rw [emitProgress, dueEvent]
  split
  · rfl
  · rw [List.append_nil]

/-- With these datapaths every index agrees, so the step advances the counter (R145, R148). -/
theorem verifierStep_eq (s : State) :
    verifierStep s =
      { s with vstate := if s.vcnt + 1 = 4294967296 then .pass else s.vstate
               vcnt := s.vcnt + 1
               ptrace := s.ptrace ++ dueEvent s.vcnt } := by
  rw [verifierStep, verifierStepWith, checkIndex, if_pos (roundTrip_eq _), emitProgress_eq]
  rfl

@[simp] theorem verifierStep_turns (s : State) : (verifierStep s).turns = s.turns :=
  verifierStepWith_turns roundTrip s

@[simp] theorem verifierStep_vcnt (s : State) : (verifierStep s).vcnt = s.vcnt + 1 := by
  rw [verifierStep_eq]

theorem verifierStep_ptrace_eq_append_dueEvent (s : State) :
    (verifierStep s).ptrace = s.ptrace ++ dueEvent s.vcnt := by
  rw [verifierStep_eq]

/-- The 33-bit counter does not wrap at an index (R23). -/
theorem vcnt_add_one_toNat {n : Count} (hn : n.toNat ≤ 4294967295) : (n + 1).toNat = n.toNat + 1 := by
  rw [BitVec.toNat_add]
  exact Nat.mod_eq_of_lt (by simp; omega)

/-- PASS comes with the last index of the domain (R145). -/
theorem verifierStep_vstate_eq {s : State} (hn : s.vcnt.toNat ≤ 4294967295) :
    (verifierStep s).vstate = if s.vcnt.toNat + 1 = 4294967296 then .pass else s.vstate := by
  have hlast : s.vcnt + 1 = 4294967296 ↔ s.vcnt.toNat + 1 = 4294967296 := by
    rw [← BitVec.toNat_inj, vcnt_add_one_toNat hn]
    rfl
  rw [verifierStep_eq]
  simp only [hlast]

/-- No step of the verifier is a mismatch, so none enters FAIL (R148). -/
theorem verifierStep_vstate_ne_fail {s : State} (h : s.vstate ≠ .fail) : (verifierStep s).vstate ≠ .fail := by
  rw [verifierStep_eq]
  dsimp only
  split
  · decide
  · exact h

theorem trunc32_eq_ofNat (n : Count) : trunc32 n = BitVec.ofNat 32 n.toNat := by
  apply BitVec.eq_of_toNat_eq
  rw [trunc32_toNat, BitVec.toNat_ofNat]

/-- The event of an index in natural-number arithmetic (R150). -/
theorem progressAt_eq (n : Count) :
    progressAt n = { idx := BitVec.ofNat 32 n.toNat, pct := BitVec.ofNat 7 (100 * n.toNat / 2 ^ 32) } := by
  rw [progressAt, trunc32_eq_ofNat]
  rfl

@[simp] theorem VState.ofCode_code (v : VState) : VState.ofCode v.code = v := by cases v <;> rfl

theorem VState.code_eq_zero_iff (v : VState) : v.code = 0 ↔ v = .idle := by cases v <;> decide

/-- STATE, bits 1:0 of the status word (R26). -/
@[simp] theorem statusWord_extract_state (s : State) : (statusWord s).extractLsb' 0 2 = s.vstate.code := by
  apply BitVec.eq_of_toNat_eq
  have hcode := s.vstate.code.isLt
  rw [BitVec.extractLsb'_toNat, statusWord_toNat, Nat.shiftRight_zero]
  omega

/-- PCT, bits 9:3 of the status word (R26). -/
theorem statusWord_extract_pct (s : State) : (statusWord s).extractLsb' 3 7 = pctField s.vcnt := by
  apply BitVec.eq_of_toNat_eq
  have hcode := s.vstate.code.isLt
  have hhi := (cntHi s.vcnt).isLt
  have hpct := (pctField s.vcnt).isLt
  rw [BitVec.extractLsb'_toNat, statusWord_toNat, Nat.shiftRight_eq_div_pow]
  omega

/-- Bits 31:10 of the status word are reserved (R26). -/
theorem statusWord_extract_reserved (s : State) : (statusWord s).extractLsb' 10 22 = 0 := by
  apply BitVec.eq_of_toNat_eq
  have hcode := s.vstate.code.isLt
  have hhi := (cntHi s.vcnt).isLt
  have hpct := (pctField s.vcnt).isLt
  rw [BitVec.extractLsb'_toNat, statusWord_toNat, Nat.shiftRight_eq_div_pow, BitVec.ofNat_eq_ofNat, BitVec.toNat_zero]
  omega

/-- The STATE field shows 0 only in IDLE (R22, R26). -/
theorem statusWord_state_ne_zero {s : State} (h : s.vstate ≠ .idle) : (statusWord s).extractLsb' 0 2 ≠ 0 := by
  rw [statusWord_extract_state]
  exact fun hzero => h ((VState.code_eq_zero_iff _).mp hzero)

/-- A VSTART with a verifier leaves a state other than IDLE, whether it starts the sweep or is turned away (R141). -/
theorem startSweep_vstate_ne_idle (s : State) : (startSweep s).vstate ≠ .idle := by
  rcases startSweep_cases s with ⟨_, h⟩ | ⟨hs, h⟩ | ⟨hs, h⟩ <;> rw [h]
  · simp
  · simp [hs]
  · simp [hs]

/-- Only a reset writes IDLE. -/
theorem step_vstate_ne_idle {s t : State} (hs : s.vstate ≠ .idle) (h : step s = .next t)
    (hreset : ∀ rest, s.turns ≠ .platform :: rest) : t.vstate ≠ .idle := by
  rcases step_next_effects h with ⟨_, _, _, _, _, _, rfl⟩ | ⟨_, _, _, _, _, rfl⟩ | ⟨_, _, rfl⟩ | ⟨rest, hturn, _⟩
  · exact hs
  · simp
  · rcases verifierStep_vstate { s with turns := s.turns.tail } with hv | hv | hv <;> rw [hv]
    · exact hs
    · decide
    · decide
  · exact absurd hturn (hreset rest)

/-- No step writes the parameters (R242). -/
theorem step_params {s t : State} (h : step s = .next t) : t.params = s.params := by
  rcases step_next_effects h with ⟨_, _, _, _, _, _, rfl⟩ | ⟨_, _, _, _, _, rfl⟩ | ⟨_, _, rfl⟩ | ⟨_, _, rfl⟩
  · rfl
  · rfl
  · rw [verifierStep_params]
  · rfl

end Sys2Proof.Machine
end

section
/-! SUPPORT. The invariant, by the effect of a step. It does not mention the turns, so taking one off keeps it. -/

namespace Sys2Proof.Machine

theorem StateInv.afterReset (p : Config.Params) : StateInv (State.afterReset p) := by
  simp [State.afterReset, StateInv, SweepInv, TraceInv, ResponsesInv, AbsentInv]

theorem StateInv.respond {s : State} (h : StateInv s) {st : Status} {d : Word} (hd : st ≠ .ok → d = 0) :
    StateInv (respond st d s) := by
  obtain ⟨hsweep, htrace, hresponses, habsent⟩ := h
  refine ⟨hsweep, htrace, fun r hr => ?_, habsent⟩
  rcases List.mem_append.mp hr with hold | hnew
  · exact hresponses r hold
  · rw [List.mem_singleton.mp hnew]
    exact hd

/-- A sweep starts with a verifier, at 0. -/
theorem StateInv.setSweep_running {s : State} (h : StateInv s) (hv : s.params.hasVerifier = true) :
    StateInv (setSweep .running 0 s) := by
  obtain ⟨_, htrace, hresponses, _⟩ := h
  exact ⟨by simp [SweepInv], htrace, hresponses, by simp [AbsentInv, hv]⟩

theorem StateInv.applyReset {s : State} (h : StateInv s) : StateInv (applyReset s) := by
  obtain ⟨_, htrace, hresponses, habsent⟩ := h
  refine ⟨by simp [SweepInv], htrace, hresponses, fun hv => ?_⟩
  obtain ⟨_, _, hempty⟩ := habsent hv
  exact ⟨rfl, rfl, hempty⟩

/-- An event due at an index has that index, below the domain, so neither field is cut (R150). -/
theorem dueEvent_inv {n : Count} (hn : n.toNat ≤ 4294967295) {e : Progress} (he : e ∈ dueEvent n) :
    e.idx.toNat % Config.progInterval = 0 ∧ e.pct.toNat = 100 * e.idx.toNat / Config.domain := by
  rw [dueEvent] at he
  split at he
  next hdue =>
    have hidx : (trunc32 n).toNat = n.toNat := by
      rw [trunc32_toNat]
      omega
    rw [List.mem_singleton.mp he, progressAt, hidx]
    exact ⟨hdue, pctField_toNat (by omega)⟩
  next => cases he

/-- The step of an enabled verifier tests an index below the domain, and PASS comes exactly at its end. -/
theorem StateInv.verifierStep {s : State} (h : StateInv s) (he : verifierEnabled s = true) :
    StateInv (verifierStep s) := by
  obtain ⟨hv, hrunning⟩ := (verifierEnabled_iff s).mp he
  obtain ⟨⟨_, hindex, _, _⟩, htrace, hresponses, _⟩ := h
  have hn : s.vcnt.toNat ≤ 4294967295 := hindex hrunning
  have hcount : (s.vcnt + 1).toNat = s.vcnt.toNat + 1 := vcnt_add_one_toNat hn
  refine ⟨?_, fun e hmem => ?_, by simpa [ResponsesInv] using hresponses, by simp [AbsentInv, hv]⟩
  · simp only [SweepInv, verifierStep_vstate_eq hn, verifierStep_vcnt, hcount, hrunning]
    split <;> simp <;> omega
  · rw [verifierStep_ptrace_eq_append_dueEvent] at hmem
    exact (List.mem_append.mp hmem).elim (htrace e) (dueEvent_inv hn)

end Sys2Proof.Machine
end

section
/-! The statements about the state items, their invariant and the verifier's step (10_state, 42_verifier). -/

namespace Sys2Proof.Machine

/-- Settles O35: the sweep has not started, and both lists are empty. -/
theorem invariantHoldsAfterReset : Obligations.InvariantHoldsAfterReset := StateInv.afterReset

/-- Settles O36, by the effect of the step. -/
theorem everyStepKeepsTheInvariant : Obligations.EveryStepKeepsTheInvariant := by
  intro s t hinv h
  have hrest (l : List Turn) : StateInv { s with turns := l } := hinv
  rcases step_next_effects h with
    ⟨_, rest, _, _, _, hd, rfl⟩ | ⟨_, rest, _, hv, _, rfl⟩ | ⟨_, he, rfl⟩ | ⟨rest, _, rfl⟩
  · exact (hrest rest).respond hd
  · exact ((hrest rest).setSweep_running hv).respond (fun hne => absurd rfl hne)
  · exact (hrest _).verifierStep he
  · exact (hrest rest).applyReset

/-- Settles O37: of the four effects only the verifier's step could write FAIL, and it finds no mismatch. -/
theorem failIsNeverEntered : Obligations.FailIsNeverEntered := by
  intro s t hs h
  rcases step_next_effects h with ⟨_, _, _, _, _, _, rfl⟩ | ⟨_, _, _, _, _, rfl⟩ | ⟨_, _, rfl⟩ | ⟨_, _, rfl⟩
  · exact hs
  · simp [Safe]
  · exact verifierStep_vstate_ne_fail hs
  · simp [Safe]

/-- Settles O21: each field of the status word by its bits. -/
theorem statusWordFields : Obligations.StatusWordFields := by
  intro s
  refine ⟨statusWord_extract_state s, VState.ofCode_code _, statusWord_extract_cntHi s,
    statusWord_extract_reserved s, fun hn => ?_⟩
  rw [statusWord_extract_pct, pctField_toNat hn]
  exact ⟨rfl, by omega⟩

/-- Settles O29: every index agrees, so the step is the advance. -/
theorem verifierStepTestsOneIndex : Obligations.VerifierStepTestsOneIndex := by
  intro s hturn hv hrunning hn
  refine ⟨_, step_verifier hturn ((verifierEnabled_iff s).mpr ⟨hv, hrunning⟩), ?_,
    fun hmismatch => absurd (unhash32_hash32 _) hmismatch, fun _ => ⟨?_, ?_⟩, ?_, ?_, ?_⟩
  · rw [verifierStep_ptrace_eq_append_dueEvent, dueEvent, progressAt_eq]
  · rw [verifierStep_vcnt]
    exact vcnt_add_one_toNat hn
  · rw [← hrunning]
    exact verifierStep_vstate_eq hn
  · exact verifierStep_params _
  · exact verifierStep_turns _
  · exact verifierStep_responses _

/-- Settles O30: a disagreeing round trip takes the FAIL branch of the check, after the event. -/
theorem mismatchEndsTheSweep : Obligations.MismatchEndsTheSweep := by
  intro rt s hmismatch
  have hfail : verifierStepWith rt s =
      { s with vstate := .fail, vcnt := s.vcnt, ptrace := s.ptrace ++ dueEvent s.vcnt } := by
    rw [verifierStepWith, checkIndex, emitProgress_eq, if_neg hmismatch]
    rfl
  rw [hfail]
  exact ⟨rfl, by simp [verifierEnabled], fun hv => by simp [verDone, verPass, hv]⟩

/-- Settles O39, by the effect of the step. -/
theorem onlyThreeStepsWriteTheVerifier : Obligations.OnlyThreeStepsWriteTheVerifier := by
  intro s t h hwrite
  rcases step_next_effects h with
    ⟨_, _, _, _, _, _, rfl⟩ | ⟨a, rest, hturn, _, hstart, _⟩ | ⟨hturn, he, _⟩ | ⟨rest, hturn, _⟩
  · simp at hwrite
  · exact .inl ⟨a, rest, hturn, hstart⟩
  · exact .inr (.inl ⟨hturn, ((verifierEnabled_iff s).mp he).2⟩)
  · exact .inr (.inr ⟨rest, hturn⟩)

/-- Settles O42: in RUNNING a step that is no reset keeps both items or is the verifier's, which adds one. -/
theorem sweepCountsUpward : Obligations.SweepCountsUpward := by
  intro s t hrunning hn h hreset
  rcases step_of_running_or_fail (.inl hrunning) h hreset with ⟨hv, hc⟩ | ⟨_, rfl⟩
  · rw [hv, hc]
    exact ⟨.inl rfl, le_rfl, .inl hrunning⟩
  · have hcount : (verifierStep { s with turns := s.turns.tail }).vcnt.toNat = s.vcnt.toNat + 1 := by
      rw [verifierStep_vcnt]
      exact vcnt_add_one_toNat hn
    exact ⟨.inr hcount, by omega, (verifierStep_vstate _).imp_left (·.trans hrunning)⟩

/-- Settles O43: VSTART leaves IDLE or finds another state, and only a reset writes IDLE. -/
theorem startedVerifierIsNeverIdleAgain : Obligations.StartedVerifierIsNeverIdleAgain := by
  refine ⟨fun a s t hv h => ?_, fun s t hs h hreset => ?_⟩
  · cases (exec_vstart_present hv a).symm.trans h
    have hne := startSweep_vstate_ne_idle s
    exact ⟨hne, statusWord_state_ne_zero hne⟩
  · have hne := step_vstate_ne_idle hs h hreset
    exact ⟨hne, statusWord_state_ne_zero hne⟩

end Sys2Proof.Machine
end

section
/-! SUPPORT. Where a step stops, and what a step does not read: the other parameters, and, without a verifier, the unused
VSTATE and VCNT. -/

namespace Sys2Proof.Machine

/-- The two places where no agent has a step, with the stop of each (log 3). -/
def StopsWith (s : State) (f : Fault) : Prop :=
  verifierEnabled s = false ∧
    ((s.turns = [] ∧ f = .runOver) ∨ (∃ rest, s.turns = .verifier :: rest ∧ f = .verifierHasNoStep))

theorem verifierTurn_enabled {s : State} (he : verifierEnabled s = true) (f : Fault) :
    verifierTurn f s = .next (verifierStep s) := by
  rw [verifierTurn, if_pos he]

theorem verifierTurn_disabled {s : State} (he : verifierEnabled s = false) (f : Fault) :
    verifierTurn f s = .fault f := by
  rw [verifierTurn, he, if_neg Bool.false_ne_true]

theorem step_of_stopsWith {s : State} {f : Fault} (h : StopsWith s f) : step s = .fault f := by
  obtain ⟨he, ⟨hturn, rfl⟩ | ⟨rest, hturn, rfl⟩⟩ := h
  · simp only [step, nextStep, hturn, verifierTurn_disabled he]
  · simp only [step, nextStep, hturn, takeTurn]
    exact verifierTurn_disabled (s := { s with turns := rest }) he _

/-- A step goes on, or no agent has one. -/
theorem step_next_or_stops (s : State) : (∃ t, step s = .next t) ∨ ∃ f, StopsWith s f := by
  cases hturn : s.turns with
  | nil =>
    cases he : verifierEnabled s with
    | true => exact .inl ⟨_, step_verifier (.inl hturn) he⟩
    | false => exact .inr ⟨.runOver, he, .inl ⟨hturn, rfl⟩⟩
  | cons u rest =>
    cases u with
    | host c =>
      obtain ⟨t, ht, _⟩ := acceptCommand_answersWith c { s with turns := rest }
      exact .inl ⟨t, (step_host hturn).trans ht⟩
    | verifier =>
      cases he : verifierEnabled s with
      | true => exact .inl ⟨_, step_verifier (.inr ⟨rest, hturn⟩) he⟩
      | false => exact .inr ⟨.verifierHasNoStep, he, .inr ⟨rest, hturn, rfl⟩⟩
    | platform => exact .inl ⟨_, step_platform hturn⟩

theorem step_eq_fault_iff (s : State) (f : Fault) : step s = .fault f ↔ StopsWith s f := by
  refine ⟨fun h => ?_, step_of_stopsWith⟩
  rcases step_next_or_stops s with ⟨t, ht⟩ | ⟨g, hg⟩
  · cases ht.symm.trans h
  · cases (step_of_stopsWith hg).symm.trans h
    exact hg

theorem step_ne_refused (s : State) (r : Refusal) : step s ≠ .refused r := by
  intro h
  rcases step_next_or_stops s with ⟨t, ht⟩ | ⟨f, hf⟩
  · cases ht.symm.trans h
  · cases (step_of_stopsWith hf).symm.trans h

/-- An outcome with its next state, if it is one, mapped. -/
def mapNext (f : State → State) : Host.Outcome State Fault Refusal → Host.Outcome State Fault Refusal
  | .next s => .next (f s)
  | .fault r => .fault r
  | .refused r => .refused r

/-- The state with other parameters. -/
def setParams (p : Config.Params) (s : State) : State := { s with params := p }

section
variable {p : Config.Params} {s : State} (hp : p.hasVerifier = s.params.hasVerifier)
include hp

theorem verifierEnabled_setParams : verifierEnabled (setParams p s) = verifierEnabled s :=
  congrArg (· && decide (s.vstate = .running)) hp

omit hp in
theorem verifierStep_setParams : verifierStep (setParams p s) = setParams p (verifierStep s) := by
  rw [verifierStep_eq, verifierStep_eq]
  rfl

theorem verifierTurn_setParams (f : Fault) :
    verifierTurn f (setParams p s) = mapNext (setParams p) (verifierTurn f s) := by
  cases he : verifierEnabled s with
  | true =>
    rw [verifierTurn_enabled he, verifierTurn_enabled ((verifierEnabled_setParams hp).trans he), mapNext,
      verifierStep_setParams]
  | false => rw [verifierTurn_disabled he, verifierTurn_disabled ((verifierEnabled_setParams hp).trans he), mapNext]

theorem whenVerifier_setParams {k : State → State} (hk : k (setParams p s) = setParams p (k s)) :
    whenVerifier k (setParams p s) = setParams p (whenVerifier k s) := by
  cases hv : s.params.hasVerifier with
  | true => rw [whenVerifier_present hv, whenVerifier_present (hp.trans hv), hk]
  | false =>
    rw [whenVerifier_absent hv, whenVerifier_absent (hp.trans hv)]
    rfl

omit hp in
theorem startSweep_setParams : startSweep (setParams p s) = setParams p (startSweep s) := by
  cases s with
  | mk _ v => cases v <;> rfl

theorem exec_setParams (i : Instr) : exec i (setParams p s) = mapNext (setParams p) (exec i s) := by
  cases i with
  | hash _ => rfl
  | unhash _ => rfl
  | vstart _ => exact congrArg _ (whenVerifier_setParams hp startSweep_setParams)
  | vstat _ => exact congrArg _ (whenVerifier_setParams (k := fun s => respond .ok (statusWord s) s) hp rfl)
  | vcount _ => exact congrArg _ (whenVerifier_setParams (k := fun s => respond .ok (trunc32 s.vcnt) s) hp rfl)

theorem acceptCommand_setParams (c : Cmd) :
    acceptCommand c (setParams p s) = mapNext (setParams p) (acceptCommand c s) := by
  cases hd : decode c with
  | instr i => rw [acceptCommand_instr hd, acceptCommand_instr hd, exec_setParams hp]
  | reserved op =>
    rw [acceptCommand_reserved hd, acceptCommand_reserved hd]
    rfl

/-- A step asks the parameters only whether there is a verifier. -/
theorem step_setParams : step (setParams p s) = mapNext (setParams p) (step s) := by
  cases hturn : s.turns with
  | nil =>
    simp only [step, nextStep, hturn, show (setParams p s).turns = [] from hturn]
    exact verifierTurn_setParams hp _
  | cons u rest =>
    have hturn' : (setParams p s).turns = u :: rest := hturn
    cases u with
    | host c =>
      rw [step_host hturn, step_host hturn']
      exact acceptCommand_setParams (s := { s with turns := rest }) hp c
    | verifier =>
      simp only [step, nextStep, hturn, hturn', takeTurn]
      exact verifierTurn_setParams (s := { s with turns := rest }) hp _
    | platform =>
      rw [step_platform hturn, step_platform hturn']
      rfl

end

theorem verifierEnabled_absent {s : State} (h : s.params.hasVerifier = false) : verifierEnabled s = false := by
  rw [verifierEnabled, h, Bool.false_and]

/-- A block without a verifier answers a command word by the word alone (R67, R110, R130). -/
theorem acceptCommand_absent (c : Cmd) :
    ∃ st d, ∀ s : State, s.params.hasVerifier = false → acceptCommand c s = .next (respond st d s) := by
  rcases decode_cases c with ⟨_, hd⟩ | ⟨_, hd⟩ | ⟨_, hd⟩ | ⟨_, hd⟩ | ⟨_, hd⟩ | ⟨_, hd⟩
  · exact ⟨.ok, hash32 (cmdArg c), fun s _ => acceptCommand_instr hd s⟩
  · exact ⟨.ok, unhash32 (cmdArg c), fun s _ => acceptCommand_instr hd s⟩
  case inr.inr.inr.inr.inr => exact ⟨.illegalOp, 0, fun s _ => acceptCommand_reserved hd s⟩
  all_goals
    refine ⟨.unsupported, 0, fun s habsent => (acceptCommand_instr hd s).trans ?_⟩
    exact exec_verifierCommand_absent (by simp [Instr.opcode]) habsent

/-- Without a verifier a step of the same state but for VSTATE and VCNT gives the same but for VSTATE and VCNT. -/
theorem step_absent_same_but_sweep {s t : State} (habsent : s.params.hasVerifier = false) (h : step s = .next t)
    (v : VState) (n : Count) :
    ∃ t', step (setSweep v n s) = .next t' ∧ t'.responses = t.responses ∧ t'.ptrace = t.ptrace ∧
      t.ptrace = s.ptrace ∧ t'.turns = t.turns ∧ t'.params = t.params := by
  rcases step_next_cases h with ⟨c, rest, hturn, hc⟩ | ⟨_, he, _⟩ | ⟨rest, hturn, rfl⟩
  · obtain ⟨st, d, hrespond⟩ := acceptCommand_absent c
    cases (hrespond { s with turns := rest } habsent).symm.trans hc
    have hturn' : (setSweep v n s).turns = .host c :: rest := hturn
    exact ⟨_, (step_host hturn').trans (hrespond _ habsent), rfl, rfl, rfl, rfl, rfl⟩
  · cases (verifierEnabled_absent habsent).symm.trans he
  · have hturn' : (setSweep v n s).turns = .platform :: rest := hturn
    exact ⟨_, step_platform hturn', rfl, rfl, rfl, rfl, rfl⟩

/-- HASH and UNHASH of one argument give one response in every state (R21, R202). -/
theorem exec_transform {a : Word} {i : Instr} (hi : i = .hash a ∨ i = .unhash a) :
    ∃ d, ∀ s, exec i s = .next (respond .ok d s) := by
  rcases hi with rfl | rfl
  · exact ⟨hash32 a, fun _ => rfl⟩
  · exact ⟨unhash32 a, fun _ => rfl⟩

theorem step_host_encode {i : Instr} {rest : List Turn} {s : State} (h : s.turns = .host (encode i) :: rest) :
    step s = exec i { s with turns := rest } := by
  rw [step_host h, acceptCommand_instr (decode_encode i)]

/-- The verifier neither reads nor writes the turns. -/
theorem verifierStep_setTurns (s : State) (l : List Turn) :
    verifierStep { s with turns := l } = { verifierStep s with turns := l } := by
  rw [verifierStep_eq, verifierStep_eq]

/-- A response before the verifier's step is a response after it (R147). -/
theorem verifierStep_respond (st : Status) (d : Word) (s : State) :
    verifierStep (respond st d s) = respond st d (verifierStep s) := by
  rw [respond, verifierStep_setResponses, respond, verifierStep_responses]

/-- A run of two steps. -/
theorem run_two {s t u : State} (h1 : step s = .next t) (h2 : step t = .next u) :
    Sys2Proof.core.run 2 s = .next u := by
  rw [run_succ_next h1, run_succ_next h2]
  rfl

end Sys2Proof.Machine
end

section
/-! The statements about the order of steps, their stops and what they do not read (70_reset_and_hazards, 00_scope). -/

namespace Sys2Proof.Machine

/-- Settles O31: with the verifier next, the step goes on where the verifier is enabled and stops where it is not. -/
theorem verifierHasAStepExactlyWhenRunning : Obligations.VerifierHasAStepExactlyWhenRunning := by
  intro s hturn
  rw [← verifierEnabled_iff]
  refine ⟨fun ⟨t, h⟩ => ?_, fun he => ⟨_, step_verifier hturn he⟩⟩
  by_contra hdisabled
  have he : verifierEnabled s = false := Bool.eq_false_iff.mpr hdisabled
  obtain ⟨f, hf⟩ : ∃ f, StopsWith s f :=
    hturn.elim (fun hnil => ⟨_, he, .inl ⟨hnil, rfl⟩⟩) (fun ⟨rest, hrest⟩ => ⟨_, he, .inr ⟨rest, hrest, rfl⟩⟩)
  cases h.symm.trans (step_of_stopsWith hf)

/-- Settles O32: a step goes on unless no agent has one. -/
theorem onlyAScheduleStopsTheMachine : Obligations.OnlyAScheduleStopsTheMachine :=
  fun s => ⟨step_ne_refused s, step_eq_fault_iff s⟩

/-- Settles O48: the response is fixed by the argument, and the verifier's step writes neither turns nor responses. -/
theorem transformsCommuteWithTheVerifier : Obligations.TransformsCommuteWithTheVerifier := by
  intro a i s rest hi hv hrunning
  obtain ⟨d, hexec⟩ := exec_transform hi
  have he : verifierEnabled s = true := (verifierEnabled_iff s).mpr ⟨hv, hrunning⟩
  refine ⟨respond .ok d (verifierStep { s with turns := rest }), ?_, ?_⟩
  · have hhost : step { s with turns := .host (encode i) :: .verifier :: rest } =
        .next (respond .ok d { s with turns := .verifier :: rest }) := (step_host_encode rfl).trans (hexec _)
    have hverifier : step (respond .ok d { s with turns := .verifier :: rest }) =
        .next (verifierStep (respond .ok d { s with turns := rest })) := step_verifier (.inr ⟨rest, rfl⟩) he
    rw [run_two hhost hverifier, verifierStep_respond]
  · have hverifier : step { s with turns := .verifier :: .host (encode i) :: rest } =
        .next (verifierStep { s with turns := .host (encode i) :: rest }) := step_verifier (.inr ⟨_, rfl⟩) he
    have hhost := (step_host_encode (verifierStep_turns { s with turns := .host (encode i) :: rest })).trans (hexec _)
    rw [run_two hverifier hhost, ← verifierStep_setTurns]

/-- Settles O49: substituting the parameters commutes with the step, which writes none. -/
theorem otherParametersAreNeverRead : Obligations.OtherParametersAreNeverRead := by
  intro s p hp
  have hstep : step { s with params := p } = mapNext (setParams p) (step s) := step_setParams hp
  refine ⟨fun t h => ?_, fun f h => ?_, fun t => step_params⟩
  · rw [hstep, h]
    rfl
  · rw [hstep, h]
    rfl

/-- Settles O50: without a verifier a command word fixes its response, and the stops depend on the turns alone. -/
theorem absentVerifierStateIsInvisible : Obligations.AbsentVerifierStateIsInvisible := by
  intro s v n habsent
  refine ⟨by rw [verDone, habsent, Bool.false_and], by rw [verPass, habsent, Bool.false_and],
    fun t h => step_absent_same_but_sweep habsent h v n, fun f h => ?_⟩
  obtain ⟨_, hturn⟩ := (step_eq_fault_iff s f).mp h
  exact step_of_stopsWith ⟨verifierEnabled_absent habsent, hturn⟩

end Sys2Proof.Machine
end

section
/-! SUPPORT. The ports by what a step adds to the responses and to the trace. -/

namespace Sys2Proof.Machine

theorem outPorts_resp_of_append {s t : State} {new : List Response} (h : t.responses = s.responses ++ new) :
    (outPorts s t).resp = new.head?.map (fun r => (r.status.code, r.data)) := by
  simp only [outPorts, h, List.drop_left]

theorem outPorts_prog_of_append {s t : State} {new : List Progress} (h : t.ptrace = s.ptrace ++ new) :
    (outPorts s t).prog = new.head?.map (fun e => (e.idx, e.pct)) := by
  simp only [outPorts, h, List.drop_left]

theorem outPorts_resp_of_eq {s t : State} (h : t.responses = s.responses) : (outPorts s t).resp = none :=
  outPorts_resp_of_append (h.trans (List.append_nil _).symm)

theorem outPorts_prog_of_eq {s t : State} (h : t.ptrace = s.ptrace) : (outPorts s t).prog = none :=
  outPorts_prog_of_append (h.trans (List.append_nil _).symm)

/-- A command word adds one response and no event (R64, R24). -/
theorem acceptCommand_adds_one_response (c : Cmd) (s : State) :
    ∃ r t, acceptCommand c s = .next t ∧ t.responses = s.responses ++ [r] ∧ t.ptrace = s.ptrace := by
  rcases acceptCommand_cases c s with ⟨st, d, _, h⟩ | ⟨_, _, _, h⟩
  · exact ⟨_, _, h, rfl, rfl⟩
  · exact ⟨_, _, h, rfl, rfl⟩

end Sys2Proof.Machine
end

section
/-! The statement about the ports (30_encoding section 7). -/

namespace Sys2Proof.Machine

/-- Settles O52, by the three kinds of step. -/
theorem portsPresentTheStep : Obligations.PortsPresentTheStep := by
  refine ⟨fun c s => ?_, fun s => ⟨?_, ?_⟩, fun s => ?_, fun s t _ => ⟨rfl, rfl, verDone_iff t, verPass_iff t⟩⟩
  · obtain ⟨r, t, h, hresponses, hptrace⟩ := acceptCommand_adds_one_response c s
    exact ⟨r, t, h, hresponses, outPorts_resp_of_append hresponses, outPorts_prog_of_eq hptrace⟩
  · exact outPorts_resp_of_eq (verifierStep_responses s)
  · rw [outPorts_prog_of_append (verifierStep_ptrace_eq_append_dueEvent s), dueEvent, progressAt_eq]
    split <;> rfl
  · rw [outPorts, verDone_applyReset, verPass_eq_false_of_idle (applyReset_vstate s)]
    simp

end Sys2Proof.Machine
end

section
/-! SUPPORT. How a sweep goes on from a state `s`: the state after any number of further verifier steps, whatever responses
fall between them. -/

namespace Sys2Proof.Machine

/-- The events of the `n` indices from `i` on, in order (R150). -/
def eventsFrom (i : Nat) : Nat → List Progress
  | 0 => []
  | n + 1 => eventsFrom i n ++ dueEvent (BitVec.ofNat 33 (i + n))

/-- `t` is what the sweep of `s` comes to with `n` more verifier steps, up to responses and turns. -/
structure SweepFrom (s : State) (n : Nat) (t : State) : Prop where
  params : t.params = s.params
  vcnt : t.vcnt.toNat = s.vcnt.toNat + n
  bound : s.vcnt.toNat + n ≤ 4294967296
  vstate : t.vstate = if s.vcnt.toNat + n = 4294967296 then .pass else .running
  ptrace : t.ptrace = s.ptrace ++ eventsFrom s.vcnt.toNat n

namespace SweepFrom

variable {s t : State} {n : Nat}

theorem start (hrunning : s.vstate = .running) (hn : s.vcnt.toNat ≤ 4294967295) : SweepFrom s 0 s :=
  ⟨rfl, rfl, by omega, by rw [hrunning, if_neg (by omega)], (List.append_nil _).symm⟩

theorem setTurns (h : SweepFrom s n t) (l : List Turn) : SweepFrom s n { t with turns := l } :=
  ⟨h.params, h.vcnt, h.bound, h.vstate, h.ptrace⟩

theorem respond (h : SweepFrom s n t) (st : Status) (d : Word) : SweepFrom s n (respond st d t) :=
  ⟨h.params, h.vcnt, h.bound, h.vstate, h.ptrace⟩

theorem running (h : SweepFrom s n t) (hlt : s.vcnt.toNat + n < 4294967296) : t.vstate = .running := by
  rw [h.vstate, if_neg hlt.ne]

theorem pass (h : SweepFrom s n t) (heq : s.vcnt.toNat + n = 4294967296) : t.vstate = .pass := by
  rw [h.vstate, if_pos heq]

theorem hasVerifier (h : SweepFrom s n t) (hv : s.params.hasVerifier = true) : t.params.hasVerifier = true := by
  rw [h.params, hv]

theorem enabled (h : SweepFrom s n t) (hv : s.params.hasVerifier = true) (hlt : s.vcnt.toNat + n < 4294967296) :
    verifierEnabled t = true :=
  (verifierEnabled_iff t).mpr ⟨h.hasVerifier hv, h.running hlt⟩

theorem disabled (h : SweepFrom s n t) (heq : s.vcnt.toNat + n = 4294967296) : verifierEnabled t = false := by
  simp [verifierEnabled, h.pass heq]

/-- One verifier step takes the sweep one index on (R145). -/
theorem verifierStep (h : SweepFrom s n t) (hlt : s.vcnt.toNat + n < 4294967296) :
    SweepFrom s (n + 1) (verifierStep t) := by
  have hindex : t.vcnt.toNat ≤ 4294967295 := by
    rw [h.vcnt]
    omega
  have hofNat : BitVec.ofNat 33 (s.vcnt.toNat + n) = t.vcnt := by rw [← h.vcnt, BitVec.ofNat_toNat, BitVec.setWidth_eq]
  refine ⟨(verifierStep_params t).trans h.params, ?_, hlt, ?_, ?_⟩
  · rw [verifierStep_vcnt, vcnt_add_one_toNat hindex, h.vcnt, Nat.add_assoc]
  · rw [verifierStep_vstate_eq hindex, h.vcnt, h.running hlt, Nat.add_assoc]
  · rw [verifierStep_ptrace_eq_append_dueEvent, h.ptrace, eventsFrom, hofNat, List.append_assoc]

/-- The verifier left to itself takes the steps that remain, and no more. -/
theorem verifierSteps (h : SweepFrom s n t) (hv : s.params.hasVerifier = true) (g : Nat) :
    SweepFrom s (min (n + g) (4294967296 - s.vcnt.toNat)) (verifierSteps g t) := by
  induction g generalizing n t with
  | zero =>
    have hbound := h.bound
    rwa [Nat.min_eq_left (by omega)]
  | succ g ih =>
    rw [Machine.verifierSteps]
    rcases Nat.lt_or_eq_of_le h.bound with hlt | heq
    · rw [if_pos (h.enabled hv hlt), ← Nat.add_assoc, Nat.add_right_comm]
      exact ih (h.verifierStep hlt)
    · rw [h.disabled heq, if_neg Bool.false_ne_true, Nat.min_eq_right (by omega)]
      rwa [show n = 4294967296 - s.vcnt.toNat by omega] at h

/-- Below 2^32 the host's turn only adds a response (R162). -/
theorem acceptCommand (h : SweepFrom s n t) (hlt : s.vcnt.toNat + n < 4294967296) (c : Cmd) :
    ∃ u, acceptCommand c t = .next u ∧ SweepFrom s n u ∧ u.turns = t.turns ∧
      u.responses.length = t.responses.length + 1 := by
  obtain ⟨st, d, haccept⟩ := acceptCommand_of_running (h.running hlt) c
  exact ⟨_, haccept, h.respond st d, rfl, by simp⟩

end SweepFrom

@[simp] theorem verifierSteps_turns (g : Nat) (s : State) : (verifierSteps g s).turns = s.turns := by
  induction g generalizing s with
  | zero => rfl
  | succ g ih =>
    rw [verifierSteps]
    split
    · rw [ih, verifierStep_turns]
    · rfl

@[simp] theorem verifierSteps_responses (g : Nat) (s : State) : (verifierSteps g s).responses = s.responses := by
  induction g generalizing s with
  | zero => rfl
  | succ g ih =>
    rw [verifierSteps]
    split
    · rw [ih, verifierStep_responses]
    · rfl

/-- With no turn waiting, a run is the verifier's steps while there are any (log 2). -/
theorem run_eq_verifierSteps {s t : State} {n j : Nat} (h : SweepFrom s n t) (hv : s.params.hasVerifier = true)
    (hturns : t.turns = []) (hj : s.vcnt.toNat + n + j ≤ 4294967296) :
    Sys2Proof.core.run j t = .next (verifierSteps j t) := by
  induction j generalizing n t with
  | zero => rfl
  | succ j ih =>
    have he := h.enabled hv (by omega)
    have hstep : step t = .next (verifierStep t) := by
      simp only [step, nextStep, hturns, verifierTurn_enabled he]
    rw [run_succ_next hstep, verifierSteps, if_pos he]
    exact ih (h.verifierStep (by omega)) ((verifierStep_turns t).trans hturns) (by omega)

/-- A sweep left to run, after no more steps than remain. -/
theorem run_sweepFrom {s : State} {j : Nat} (hturns : s.turns = []) (hv : s.params.hasVerifier = true)
    (hrunning : s.vstate = .running) (hn : s.vcnt.toNat ≤ 4294967295) (hj : s.vcnt.toNat + j ≤ 4294967296) :
    ∃ t, Sys2Proof.core.run j s = .next t ∧ SweepFrom s j t ∧ t.responses = s.responses := by
  have hstart := SweepFrom.start hrunning hn
  refine ⟨_, run_eq_verifierSteps hstart hv hturns (by omega), ?_, verifierSteps_responses j s⟩
  have hsteps := hstart.verifierSteps hv j
  rwa [Nat.zero_add, Nat.min_eq_left (by omega)] at hsteps

/-- A schedule without a reset that ends with the verifier's turn and has no more of them than remain: each verifier turn
takes the sweep on, each host turn adds a response. -/
theorem run_schedule {s t : State} {n : Nat} {before : List Turn} (h : SweepFrom s n t)
    (hv : s.params.hasVerifier = true) (hturns : t.turns = before ++ [.verifier]) (hreset : .platform ∉ before)
    (hcount : s.vcnt.toNat + n + before.count .verifier < 4294967296) :
    ∃ u, Sys2Proof.core.run (before.length + 1) t = .next u ∧ SweepFrom s (n + before.count .verifier + 1) u ∧
      u.turns = [] ∧ u.responses.length + before.count .verifier = t.responses.length + before.length := by
  induction before generalizing n t with
  | nil =>
    have hlt : s.vcnt.toNat + n < 4294967296 := hcount
    have hstep := step_verifier (.inr ⟨[], hturns⟩) (h.enabled hv hlt)
    rw [hturns] at hstep
    refine ⟨_, run_succ_next hstep, (h.setTurns _).verifierStep hlt, verifierStep_turns _, ?_⟩
    rw [verifierStep_responses]
    rfl
  | cons u before ih =>
    rw [List.cons_append] at hturns
    rw [List.mem_cons, not_or] at hreset
    cases u with
    | host c =>
      rw [List.count_cons_of_ne (by simp)] at hcount ⊢
      obtain ⟨v, haccept, hfrom, hrest, hlength⟩ :=
        (h.setTurns (before ++ [.verifier])).acceptCommand (by omega) c
      obtain ⟨w, hrun, hw, hnil, hresponses⟩ := ih hfrom hrest hreset.2 hcount
      refine ⟨w, (run_succ_next ((step_host hturns).trans haccept)).trans hrun, hw, hnil, ?_⟩
      rw [hresponses, hlength, List.length_cons]
      exact Nat.add_right_comm _ _ _
    | verifier =>
      rw [List.count_cons_self] at hcount ⊢
      have hlt : s.vcnt.toNat + n < 4294967296 := by omega
      have hstep := step_verifier (.inr ⟨_, hturns⟩) (h.enabled hv hlt)
      rw [hturns] at hstep
      obtain ⟨w, hrun, hw, hnil, hresponses⟩ :=
        ih ((h.setTurns (before ++ [.verifier])).verifierStep hlt) (verifierStep_turns _) hreset.2 (by omega)
      refine ⟨w, (run_succ_next hstep).trans hrun, ?_, hnil, ?_⟩
      · rwa [Nat.add_right_comm n 1, Nat.add_assoc n] at hw
      · rw [← Nat.add_assoc, hresponses, verifierStep_responses]
        rfl
    | platform => exact absurd rfl hreset.1

/-- The event at index `i` in natural-number arithmetic (R150). -/
def eventAt (i : Nat) : Progress := { idx := BitVec.ofNat 32 i, pct := BitVec.ofNat 7 (100 * i / 2 ^ 32) }

theorem dueEvent_ofNat {i : Nat} (hi : i < 4294967296) :
    dueEvent (BitVec.ofNat 33 i) = if i % 100000000 = 0 then [eventAt i] else [] := by
  have hnat : (BitVec.ofNat 33 i).toNat = i := by
    rw [BitVec.toNat_ofNat]
    omega
  rw [dueEvent, progressAt_eq, hnat]
  rfl

/-- Below `n` there is an event at each of the first `ceil (n / 10^8)` multiples of the interval (R150). -/
theorem eventsFrom_zero {n : Nat} (hn : n ≤ 4294967296) :
    eventsFrom 0 n = (List.range ((n + 99999999) / 100000000)).map (fun j => eventAt (100000000 * j)) := by
  induction n with
  | zero => rfl
  | succ n ih =>
    rw [eventsFrom, ih (by omega), Nat.zero_add, dueEvent_ofNat (by omega)]
    split
    next hdue =>
      have hceil : (n + 1 + 99999999) / 100000000 = (n + 99999999) / 100000000 + 1 := by omega
      have hindex : 100000000 * ((n + 99999999) / 100000000) = n := by omega
      rw [hceil, List.range_succ, List.map_append, List.map_singleton, hindex]
    next hnot =>
      have hceil : (n + 1 + 99999999) / 100000000 = (n + 99999999) / 100000000 := by omega
      rw [hceil, List.append_nil]

/-- A whole sweep from index 0 has the 43 events (95_test_vectors section 3.6). -/
theorem SweepFrom.ptrace_of_whole_sweep {s t : State} {n : Nat} (h : SweepFrom s n t) (hs : s.vcnt = 0)
    (hn : n = 4294967296) :
    t.ptrace = s.ptrace ++ (List.range 43).map (fun j => eventAt (100000000 * j)) := by
  rw [h.ptrace, hs, BitVec.ofNat_eq_ofNat, BitVec.toNat_zero, eventsFrom_zero hn.le, hn]

end Sys2Proof.Machine
end

section
/-! The statements about runs of a sweep (42_verifier, 70_reset_and_hazards section 2). -/

namespace Sys2Proof.Machine

/-- Settles O44: with no turn waiting the run is the verifier's steps. -/
theorem sweepPassesAfterExactlyAllSteps : Obligations.SweepPassesAfterExactlyAllSteps := by
  intro s k hturns hv hrunning hk hsum
  refine ⟨fun j hj => ?_, ?_⟩
  · obtain ⟨t, hrun, h, _⟩ := run_sweepFrom (j := j) hturns hv hrunning (by omega) (by omega)
    exact ⟨t, hrun, h.running (by omega), h.vcnt⟩
  · obtain ⟨t, hrun, h, hresponses⟩ := run_sweepFrom (j := k) hturns hv hrunning (by omega) (by omega)
    have hpass := h.pass hsum
    have hpresent := h.hasVerifier hv
    exact ⟨t, hrun, hpass, h.vcnt.trans hsum, (verDone_iff t).mpr ⟨hpresent, .inl hpass⟩,
      (verPass_iff t).mpr ⟨hpresent, hpass⟩, h.params, hresponses⟩

/-- Settles O45: host turns leave the sweep where it is, and the last verifier turn is the last that remains. -/
theorem sweepPassesUnderEveryInterleaving : Obligations.SweepPassesUnderEveryInterleaving := by
  intro s before hturns hreset hv hrunning hcount
  have hstart := SweepFrom.start hrunning (by omega)
  obtain ⟨t, hrun, h, hnil, hresponses⟩ := run_schedule hstart hv hturns hreset (by omega)
  have hall : s.vcnt.toNat + (0 + before.count .verifier + 1) = 4294967296 := by omega
  exact ⟨t, hrun, h.pass hall, h.vcnt.trans hall, hnil, hresponses⟩

/-- Settles O47: under both kinds of schedule the sweep comes to its end, where the trace has grown by the events of the
whole domain. -/
theorem fullSweepEmitsFortyThreeEvents : Obligations.FullSweepEmitsFortyThreeEvents := by
  intro s hv hrunning hzero
  have hnat : s.vcnt.toNat = 0 := by rw [hzero]; rfl
  refine ⟨fun before hturns hreset hcount => ?_, fun k hturns hk => ?_⟩
  · have hstart := SweepFrom.start hrunning (by omega)
    obtain ⟨t, hrun, h, _⟩ := run_schedule hstart hv hturns hreset (by omega)
    exact ⟨t, hrun, h.pass (by omega), h.ptrace_of_whole_sweep hzero (by omega)⟩
  · obtain ⟨t, hrun, h, _⟩ := run_sweepFrom (j := k) hturns hv hrunning (by omega) (by omega)
    exact ⟨t, hrun, h.pass (by omega), h.ptrace_of_whole_sweep hzero hk⟩

end Sys2Proof.Machine
end

section
/-! SUPPORT. Infinite executions without a reset: the verifier's turns carry the sweep on, and weak fairness gives as many
of them as it needs (R248, log 12). -/

namespace Sys2Proof.Machine

variable {states : Nat → State} {turns : Nat → Turn} {n : Nat}

theorem verifierTurns_succ_le (turns : Nat → Turn) (n k : Nat) :
    verifierTurns turns n (k + 1) ≤ verifierTurns turns n k + 1 := by
  rw [verifierTurns]
  split <;> omega

theorem verifierTurns_mono (turns : Nat → Turn) (n : Nat) : Monotone (verifierTurns turns n) :=
  monotone_nat_of_le_succ fun _ => Nat.le_add_right _ _

/-- A turn that is no reset, in a running sweep: the verifier's takes it on, the host's leaves it where it is. -/
theorem SweepFrom.takeTurn {s t u : State} {m : Nat} {a : Turn} (h : SweepFrom s m t)
    (hv : s.params.hasVerifier = true) (hlt : s.vcnt.toNat + m < 4294967296) (hreset : a ≠ .platform)
    (hturn : takeTurn a t = .next u) : SweepFrom s (m + if a = .verifier then 1 else 0) u := by
  cases a with
  | host c =>
    obtain ⟨w, haccept, hw, _⟩ := h.acceptCommand hlt c
    cases haccept.symm.trans hturn
    simpa using hw
  | verifier =>
    cases (verifierTurn_enabled (h.enabled hv hlt) _).symm.trans hturn
    simpa using h.verifierStep hlt
  | platform => exact absurd rfl hreset

/-- While fewer than the remaining verifier turns have come, the sweep is as far as their number says. -/
theorem sweepFrom_execution (hexec : IsExecution states turns) (hreset : ∀ m, turns m ≠ .platform)
    (hv : (states n).params.hasVerifier = true) (hrunning : (states n).vstate = .running)
    (hzero : (states n).vcnt = 0) {k : Nat} (hbefore : ∀ i, i < k → verifierTurns turns n i < 4294967296) :
    SweepFrom (states n) (verifierTurns turns n k) (states (n + k)) := by
  induction k with
  | zero => exact SweepFrom.start hrunning (by simp [hzero])
  | succ k ih =>
    have hlt : (states n).vcnt.toNat + verifierTurns turns n k < 4294967296 := by
      simpa [hzero] using hbefore k (Nat.lt_succ_self k)
    exact (ih fun i hi => hbefore i (by omega)).takeTurn hv hlt (hreset _) (hexec (n + k))

/-- If the verifier stays enabled, weak fairness gives it any number of turns. -/
theorem exists_le_verifierTurns (hfair : WeaklyFair states turns)
    (henabled : ∀ m, n ≤ m → verifierEnabled (states m) = true) (j : Nat) :
    ∃ k, j ≤ verifierTurns turns n k := by
  induction j with
  | zero => exact ⟨0, le_rfl⟩
  | succ j ih =>
    obtain ⟨k, hk⟩ := ih
    obtain ⟨m, hm, hturn⟩ := hfair (n + k) fun m hm => henabled m (by omega)
    obtain ⟨i, rfl⟩ : ∃ i, m = n + i := ⟨m - n, by omega⟩
    refine ⟨i + 1, ?_⟩
    rw [verifierTurns, if_pos hturn]
    exact Nat.succ_le_succ (hk.trans (verifierTurns_mono turns n (by omega)))

/-- The verifier gets its 2^32 turns: with fewer for ever it would stay enabled, and get any number of them. -/
theorem exists_domain_le_verifierTurns (hexec : IsExecution states turns) (hfair : WeaklyFair states turns)
    (hreset : ∀ m, turns m ≠ .platform) (hv : (states n).params.hasVerifier = true)
    (hrunning : (states n).vstate = .running) (hzero : (states n).vcnt = 0) :
    ∃ k, 4294967296 ≤ verifierTurns turns n k := by
  by_contra hnever
  have hfewer (k : Nat) : verifierTurns turns n k < 4294967296 := Nat.lt_of_not_le fun h => hnever ⟨k, h⟩
  refine hnever (exists_le_verifierTurns hfair (fun m hm => ?_) _)
  obtain ⟨k, rfl⟩ : ∃ k, m = n + k := ⟨m - n, by omega⟩
  have h := sweepFrom_execution hexec hreset hv hrunning hzero (k := k) fun i _ => hfewer i
  exact h.enabled hv (by simpa [hzero] using hfewer k)

/-- In a fair execution without a reset a sweep at 0 passes with its 2^32nd verifier turn. -/
theorem sweep_passes_in_fair_execution (hexec : IsExecution states turns) (hfair : WeaklyFair states turns)
    (hreset : ∀ m, turns m ≠ .platform) (hv : (states n).params.hasVerifier = true)
    (hrunning : (states n).vstate = .running) (hzero : (states n).vcnt = 0) :
    ∃ k, (states (n + k)).vstate = .pass ∧ (states (n + k)).vcnt.toNat = 4294967296 ∧
      verifierTurns turns n k = 4294967296 ∧ ∀ j, j < k → (states (n + j)).vstate = .running := by
  have hexists := exists_domain_le_verifierTurns hexec hfair hreset hv hrunning hzero
  obtain ⟨k, hk, hleast⟩ : ∃ k, 4294967296 ≤ verifierTurns turns n k ∧
      ∀ i, i < k → verifierTurns turns n i < 4294967296 :=
    ⟨Nat.find hexists, Nat.find_spec hexists, fun i hi => Nat.lt_of_not_le (Nat.find_min hexists hi)⟩
  have hat (j : Nat) (hj : j ≤ k) : SweepFrom (states n) (verifierTurns turns n j) (states (n + j)) :=
    sweepFrom_execution hexec hreset hv hrunning hzero fun i hi => hleast i (by omega)
  have hzeroNat : (states n).vcnt.toNat = 0 := by rw [hzero]; rfl
  have hall : verifierTurns turns n k = 4294967296 := by
    have hbound := (hat k le_rfl).bound
    omega
  refine ⟨k, (hat k le_rfl).pass (by omega), (hat k le_rfl).vcnt.trans (by omega), hall, fun j hj => ?_⟩
  have hlt := hleast j hj
  exact (hat j hj.le).running (by omega)

end Sys2Proof.Machine
end

section
/-! SUPPORT. The pseudo-commands RTRIP and VWAIT by the commands they issue (30_encoding section 6). -/

namespace Sys2Proof.Machine

theorem issue_of_respond {i : Instr} {s : State} {st : Status} {d : Word} (h : exec i s = .next (respond st d s)) :
    issue i s = some ({ status := st, data := d }, respond st d s) := by
  simp [issue, h]

theorem issue_hash (x : Word) (s : State) :
    issue (.hash x) s = some ({ status := .ok, data := hash32 x }, respond .ok (hash32 x) s) :=
  issue_of_respond rfl

theorem issue_unhash (y : Word) (s : State) :
    issue (.unhash y) s = some ({ status := .ok, data := unhash32 y }, respond .ok (unhash32 y) s) :=
  issue_of_respond rfl

theorem issue_vstat {s : State} (hv : s.params.hasVerifier = true) :
    issue (.vstat 0) s = some ({ status := .ok, data := statusWord s }, respond .ok (statusWord s) s) :=
  issue_of_respond (exec_vstat_present hv 0)

theorem sweepOver_statusWord (s : State) :
    sweepOver { status := .ok, data := statusWord s } = (decide (s.vstate = .pass) || decide (s.vstate = .fail)) := by
  rw [sweepOver, statusWord_extract_state]
  cases s.vstate <;> rfl

/-- In PASS the first poll ends VWAIT. -/
theorem vwait_of_pass {s : State} (hv : s.params.hasVerifier = true) (hpass : s.vstate = .pass)
    (hcount : s.vcnt.toNat = 4294967296) (gaps : List Nat) :
    ∃ t, vwait gaps s = some (0x326, t) ∧ t.vstate = .pass ∧ t.vcnt.toNat = 4294967296 := by
  have hover : sweepOver { status := .ok, data := statusWord s } = true := by simp [sweepOver_statusWord, hpass]
  have hword : statusWord s = 0x326 := statusWord_of_pass hpass (BitVec.eq_of_toNat_eq hcount)
  refine ⟨respond .ok (statusWord s) s, ?_, hpass, hcount⟩
  rw [← hword]
  cases gaps <;> simp only [vwait, issue_vstat hv, hover, if_true]

/-- In RUNNING a poll leaves VWAIT waiting, and the verifier has its steps of the gap. -/
theorem vwait_cons_of_running {s : State} (hv : s.params.hasVerifier = true) (hrunning : s.vstate = .running)
    (g : Nat) (gaps : List Nat) :
    vwait (g :: gaps) s = vwait gaps (verifierSteps g (respond .ok (statusWord s) s)) := by
  have hover : ¬sweepOver { status := .ok, data := statusWord s } = true := by simp [sweepOver_statusWord, hrunning]
  simp only [vwait, issue_vstat hv, if_neg hover]

theorem SweepFrom.vwait_at_end {s t : State} {n : Nat} (h : SweepFrom s n t) (hv : s.params.hasVerifier = true)
    (heq : s.vcnt.toNat + n = 4294967296) (gaps : List Nat) :
    ∃ u, vwait gaps t = some (0x326, u) ∧ u.vstate = .pass ∧ u.vcnt.toNat = 4294967296 :=
  vwait_of_pass (h.hasVerifier hv) (h.pass heq) (h.vcnt.trans heq) gaps

/-- VWAIT ends in PASS when the gaps hold the steps that remain of the sweep of `s`. -/
theorem vwait_sweepFrom {s t : State} {n : Nat} (h : SweepFrom s n t) (hv : s.params.hasVerifier = true)
    (gaps : List Nat) (hsum : 4294967296 ≤ s.vcnt.toNat + n + gaps.sum) :
    ∃ u, vwait gaps t = some (0x326, u) ∧ u.vstate = .pass ∧ u.vcnt.toNat = 4294967296 := by
  induction gaps generalizing n t with
  | nil => exact h.vwait_at_end hv (le_antisymm h.bound hsum) []
  | cons g gaps ih =>
    rcases Nat.lt_or_eq_of_le h.bound with hlt | heq
    · rw [vwait_cons_of_running (h.hasVerifier hv) (h.running hlt)]
      refine ih ((h.respond .ok (statusWord t)).verifierSteps hv g) ?_
      rw [List.sum_cons] at hsum
      omega
    · exact h.vwait_at_end hv heq (g :: gaps)

end Sys2Proof.Machine
end

section
/-! The statements about infinite executions (70_reset_and_hazards section 2) and the pseudo-commands (30_encoding
section 6). -/

namespace Sys2Proof.Machine

/-- Settles O46: the VSTART sets the sweep to 0, from where fairness carries it to PASS. -/
theorem fairSweepReachesPass : Obligations.FairSweepReachesPass := by
  intro states turns n a hexec hfair hreset hv hstart hturn
  have hnext : states (n + 1) = respond .ok 0 (setSweep .running 0 (states n)) := by
    have hstep := hexec n
    rw [hturn, takeTurn, acceptCommand_instr (decode_encode _), exec_vstart_of_idle_or_pass hv hstart] at hstep
    exact (Host.Outcome.next.inj hstep).symm
  exact sweep_passes_in_fair_execution hexec hfair hreset (by rw [hnext]; exact hv) (by rw [hnext]; rfl)
    (by rw [hnext]; rfl)

/-- Settles O53: UNHASH of the hash is the word, and the steps between neither read nor write the responses. -/
theorem rtripPassesOnEveryWord : Obligations.RtripPassesOnEveryWord := by
  intro x gap s
  have hgap : verifierSteps gap (respond .ok (hash32 x) s) = respond .ok (hash32 x) (verifierSteps gap s) := by
    rw [respond, verifierSteps_setResponses, respond, verifierSteps_responses]
  simp only [rtrip, issue_hash, issue_unhash, unhash32_hash32, hgap, decide_true]
  simp [respond]

/-- Settles O54: each poll in RUNNING is followed by the steps of its gap, and the gaps hold all that remain. -/
theorem vwaitEndsInPass : Obligations.VwaitEndsInPass :=
  fun gaps _ hv hrunning hn hsum => vwait_sweepFrom (SweepFrom.start hrunning hn) hv gaps hsum

end Sys2Proof.Machine
end
